-- ==== Sys2Proof/Word.lean ====
section
/-! DEFINITION. The byte and word types and the constants the spec fixes (spec/00_scope.md R6, R11). -/

namespace Sys2Proof

/-- A byte: 8 bits, bit 7 the most significant (R11). -/
abbrev Byte := BitVec 8

/-- The checksum's type: 16 bits (R82). -/
abbrev Half := BitVec 16

/-- Layer L2's 32-bit values (R11). -/
abbrev Word := BitVec 32

/-- `SOP_SIZE` (R6). -/
abbrev sopSize : Nat := 1

/-- `VER_SIZE` (R6). -/
abbrev verSize : Nat := 1

/-- `CMD_SIZE` (R6). -/
abbrev cmdSize : Nat := 1

/-- `LEN_SIZE` (R6). -/
abbrev lenSize : Nat := 1

/-- `CHECKSUM_SIZE` (R6). -/
abbrev checksumSize : Nat := 2

/-- `EOP_SIZE` (R6). -/
abbrev eopSize : Nat := 1

/-- `HEADER_SIZE` = 4; data starts at this offset (R6). -/
abbrev headerSize : Nat := sopSize + verSize + cmdSize + lenSize

/-- `FRAME_OVERHEAD` = 7 (R6). -/
abbrev frameOverhead : Nat := headerSize + checksumSize + eopSize

/-- `MAX_DATA` (R6). -/
abbrev maxData : Nat := 251

/-- `COMPLETE_BASE` = 6, derived from the codec's own field sizes (R6, R126(g), R277). -/
abbrev completeBase : Nat := headerSize + checksumSize

/-- `TX_DEPTH` (R7, R29; the spec's choice D3). -/
abbrev txDepth : Nat := 258

/-- `RX_DEPTH` (R7, R30; the spec's choice D3). -/
abbrev rxDepth : Nat := 262

end Sys2Proof
end

