-- ==== Sys2Proof/Config.lean ====
section
/-! DEFINITION. The parameters the spec leaves open (spec/00_scope.md R7), fixed for one session of the machine (R34,
R262), and the free values: constants without a body, of which no proof can learn anything. -/

namespace Sys2Proof

/-- The ten queries of the client layer (R85, R190 to R200). -/
inductive Query
  | modelName | productName | firmwareVersion | serialNumber | runtime | productionDate
  | sensorData | sensorTemperature | sensorDataFormat | sensorName
  deriving DecidableEq, Repr, Inhabited

/-- `SlaveErrorCode`, the second tier of errors (R13, R232). -/
inductive SlaveErrorCode
  | unknown | invalidCommand | invalidDataSize | invalidValue | notPermitted | operationFailed
  deriving DecidableEq, Repr, Inhabited

/-- The three exits of the WAIT state (R156 to R159). -/
inductive WaitExit
  | completion | timeout | waitFailure
  deriving DecidableEq, Repr, Inhabited

/-- `CMD_GET_MODEL_NAME`, the one command code the source prints (R6). -/
abbrev cmdGetModelName : Byte := 0x10

/-- R7: the parameters, with the constraints R7 and D18 (and U2) put on them as proof fields. `ck` is any total function:
R141 and R142 hold of every function, and R143 is not a field but a premise a claim names (`Config.SingleByteSensitive`,
log 27). The defaults are there only so that the type is inhabited. -/
structure Config where
  sop : Byte := 0
  ver : Byte := 0
  eop : Byte := 1
  ck : List Byte → Half := fun _ => 0
  cmdGetProductName : Byte := 0x11
  cmdGetFirmwareVersion : Byte := 0x12
  cmdGetSerialNumber : Byte := 0x13
  cmdGetRuntime : Byte := 0x14
  cmdGetProductionDate : Byte := 0x15
  cmdGetSensorData : Byte := 0x16
  cmdGetSensorTemperature : Byte := 0x17
  cmdGetSensorDataFormat : Byte := 0x18
  cmdGetSensorName : Byte := 0x19
  cmdSlaveError : Byte := 0xFF
  timeout : Nat := 1
  hasIndex : Query → Bool := fun _ => false
  stNotReliable : Fin 8 := 0
  stWarmup : Fin 8 := 1
  stLamp : Fin 8 := 2
  stCalibration : Fin 8 := 3
  slaveErrPos : Nat := 0
  slaveErr : SlaveErrorCode → Byte := fun _ => 0
  eop_ne_zero : eop ≠ 0 := by decide
  timeout_pos : 0 < timeout := by decide
  codes_distinct : [cmdGetModelName, cmdGetProductName, cmdGetFirmwareVersion, cmdGetSerialNumber, cmdGetRuntime,
      cmdGetProductionDate, cmdGetSensorData, cmdGetSensorTemperature, cmdGetSensorDataFormat, cmdGetSensorName,
      cmdSlaveError].Nodup := by decide
  status_bits_distinct : [stNotReliable, stWarmup, stLamp, stCalibration].Nodup := by decide
  deriving Inhabited

/-- The parameters of the machine's session: any admissible ones (D18, log 1). -/
opaque Config.session : Config

/-- R143, a property of the checksum that a claim about corrupted frames assumes by name: two sequences of equal length
`4 ≤ m ≤ 255` that differ at exactly one offset `j` with `j = 2` or `j ≥ 4` have different checksums. -/
def Config.SingleByteSensitive (k : Config) : Prop :=
  ∀ (X Y : List Byte) (j : Nat), X.length = Y.length → 4 ≤ X.length → X.length ≤ 255 → (j = 2 ∨ 4 ≤ j) →
    j < X.length → X[j]? ≠ Y[j]? → (∀ i, i ≠ j → X[i]? = Y[i]?) → k.ck X ≠ k.ck Y

/-- Free bytes: draw number, then position (guard path R120, reset R45, busy window read R40; log 8, 13, 14). -/
opaque Config.freeByte : Nat → Nat → Byte

/-- A free choice (guard path's NoError or SlaveReportedError R120, op select after reset R45; log 8, 13). -/
opaque Config.freeChoice : Nat → Nat → Bool

/-- The transport's answer to a capability call when the schedule gives none (R160, R161; log 2). -/
opaque Config.freeAnswer : Nat → Bool

/-- Which enabled WAIT exit is taken when the schedule does not say (R156; log 11). -/
opaque Config.freeExit : Nat → WaitExit

/-- A free natural number (how much of a failed transmission reached the wire R161, `T0` after reset R45; log 12, 13). -/
opaque Config.freeNat : Nat → Nat

/-- Free results of layer L2 (R206, log 17): a byte string. -/
opaque Config.freeBytes : Nat → List Byte

/-- Free results of layer L2 (R206, log 17): a 32-bit word. -/
opaque Config.freeWord : Nat → Word

/-- Free results of layer L2 (R206, log 17): an integer. -/
opaque Config.freeInt : Nat → Int

/-- A free byte of layer L2: draw number, then position (R206, R45; log 13, 17). -/
opaque Config.freeClientByte : Nat → Nat → Byte

/-- The secondary slave error code where the parameters do not determine one (R201, log 20). -/
opaque Config.freeSlaveError : Nat → Option SlaveErrorCode

end Sys2Proof
end

