-- ==== Sys2Proof/Syntax.lean ====
section
/-! DEFINITION. The instructions: one constructor per row of spec/opcode_table.json (R8: unit operations and command
frames), and the names of what a decoder rejects. -/

namespace Sys2Proof

/-- One constructor per row of the opcode table. The four unit operations (R95) read their operands from registers. A
query carries "none or the index byte" (R191 to R200). The slave-error frame carries the response payload (R201). -/
inductive Instr
  | execute
  | encode
  | decode
  | iscomplete
  | getModelName (index : Option Byte)
  | getProductName (index : Option Byte)
  | getFirmwareVersion (index : Option Byte)
  | getSerialNumber (index : Option Byte)
  | getRuntime (index : Option Byte)
  | getProductionDate (index : Option Byte)
  | getSensorData (index : Option Byte)
  | getSensorTemperature (index : Option Byte)
  | getSensorDataFormat (index : Option Byte)
  | getSensorName (index : Option Byte)
  | slaveError (data : List Byte)
  deriving DecidableEq, Repr

/-- Why bytes are no instruction. -/
inductive Reject
  /-- No byte was given. -/
  | nothing
  /-- A value wider than the 2-bit op select (R95). -/
  | opSelectTooWide
  /-- Fewer bytes than a frame with this length byte has (R80, R81). -/
  | truncatedFrame
  /-- A length byte of 252 to 255: more data than a packet holds (R13, R80). -/
  | lengthExceedsMaxData
  /-- A command byte outside the table of R85. -/
  | unknownCommand
  /-- A query's command byte with more than one data byte: a response, not a request (R85, R190). -/
  | notARequest
  deriving DecidableEq, Repr

/-- What a decoder answers. -/
inductive Decoded
  | ok (i : Instr)
  | reject (r : Reject)
  deriving DecidableEq, Repr

end Sys2Proof
end

