-- ==== Sys2Proof/WellFormed.lean ====
section
/-! DEFINITION. Which instructions are well formed: what the encoding admits (R13, R80) and what a query may carry
(R85, R190). -/

namespace Sys2Proof

/-- The query of an instruction with its operand, for the ten query rows (R85). -/
def Instr.query? : Instr → Option (Query × Option Byte)
  | .execute => none
  | .encode => none
  | .decode => none
  | .iscomplete => none
  | .getModelName x => some (.modelName, x)
  | .getProductName x => some (.productName, x)
  | .getFirmwareVersion x => some (.firmwareVersion, x)
  | .getSerialNumber x => some (.serialNumber, x)
  | .getRuntime x => some (.runtime, x)
  | .getProductionDate x => some (.productionDate, x)
  | .getSensorData x => some (.sensorData, x)
  | .getSensorTemperature x => some (.sensorTemperature, x)
  | .getSensorDataFormat x => some (.sensorDataFormat, x)
  | .getSensorName x => some (.sensorName, x)
  | .slaveError _ => none

/-- The encoding admits the instruction: a frame's data field is at most `MAX_DATA` bytes (R13, R80). -/
def Instr.encodable : Instr → Bool
  | .slaveError data => data.length ≤ maxData
  | .execute | .encode | .decode | .iscomplete => true
  | .getModelName _ | .getProductName _ | .getFirmwareVersion _ | .getSerialNumber _ | .getRuntime _ => true
  | .getProductionDate _ | .getSensorData _ | .getSensorTemperature _ | .getSensorDataFormat _ | .getSensorName _ => true

/-- A query carries the index byte exactly when `HAS_INDEX(q)` (R190). -/
def Instr.requestForm (k : Config) (i : Instr) : Bool :=
  match i.query? with
  | some (q, index) => index.isSome == k.hasIndex q
  | none => true

/-- Well formed under the parameters `k`. -/
def WellFormed (k : Config) (i : Instr) : Bool :=
  i.encodable && i.requestForm k

end Sys2Proof
end

