-- ==== Sys2Proof/Decode.lean ====
section
/-! DEFINITION. From bytes to instructions and back (spec/30_encoding.md R80 to R95), and the frame format both sides
share (R80, R82, R110). Total on any bytes; everything that is no instruction is rejected by name. -/

namespace Sys2Proof

/-- `lo8` (R11). -/
def lo8 (v : Half) : Byte := BitVec.ofNat 8 (v.toNat % 256)

/-- `hi8` (R11). -/
def hi8 (v : Half) : Byte := BitVec.ofNat 8 (v.toNat / 256 % 256)

/-- The command byte of a query (R85). -/
def Config.commandOf (k : Config) : Query → Byte
  | .modelName => cmdGetModelName
  | .productName => k.cmdGetProductName
  | .firmwareVersion => k.cmdGetFirmwareVersion
  | .serialNumber => k.cmdGetSerialNumber
  | .runtime => k.cmdGetRuntime
  | .productionDate => k.cmdGetProductionDate
  | .sensorData => k.cmdGetSensorData
  | .sensorTemperature => k.cmdGetSensorTemperature
  | .sensorDataFormat => k.cmdGetSensorDataFormat
  | .sensorName => k.cmdGetSensorName

/-- The bytes `[0, 4 + n)` of a frame, which the checksum covers (R80, R82, R110's `H`). -/
def frameHead (k : Config) (command : Byte) (data : List Byte) : List Byte :=
  [k.sop, k.ver, command, BitVec.ofNat 8 data.length] ++ data

/-- `encode` of a packet: head, checksum low byte first, end marker (R80, R82, R110). R111 leaves it undefined for more than
251 data bytes; the function is total, and there its length byte is the count modulo 256: DESIGN CHOICE (log 30). -/
def encodeFrame (k : Config) (command : Byte) (data : List Byte) : List Byte :=
  let head := frameHead k command data
  let c := k.ck head
  head ++ [lo8 c, hi8 c] ++ [k.eop]

/-- The instruction of a query with its operand (R85). -/
def Query.instr : Query → Option Byte → Instr
  | .modelName, x => .getModelName x
  | .productName, x => .getProductName x
  | .firmwareVersion, x => .getFirmwareVersion x
  | .serialNumber, x => .getSerialNumber x
  | .runtime, x => .getRuntime x
  | .productionDate, x => .getProductionDate x
  | .sensorData, x => .getSensorData x
  | .sensorTemperature, x => .getSensorTemperature x
  | .sensorDataFormat, x => .getSensorDataFormat x
  | .sensorName, x => .getSensorName x

/-- The query a command byte selects (R85). The printed code comes first, so that selecting it needs no parameter. -/
def Config.queryOf (k : Config) (c : Byte) : Option Query :=
  if c = cmdGetModelName then some .modelName
  else if c = k.cmdGetProductName then some .productName
  else if c = k.cmdGetFirmwareVersion then some .firmwareVersion
  else if c = k.cmdGetSerialNumber then some .serialNumber
  else if c = k.cmdGetRuntime then some .runtime
  else if c = k.cmdGetProductionDate then some .productionDate
  else if c = k.cmdGetSensorData then some .sensorData
  else if c = k.cmdGetSensorTemperature then some .sensorTemperature
  else if c = k.cmdGetSensorDataFormat then some .sensorDataFormat
  else if c = k.cmdGetSensorName then some .sensorName
  else none

/-- A query's data field: nothing, or one index byte (R85, R190). -/
def decodeQuery (q : Query) : List Byte → Decoded
  | [] => .ok (q.instr none)
  | [index] => .ok (q.instr (some index))
  | _ :: _ :: _ => .reject .notARequest

/-- A command byte with its data field (R85). -/
def decodePacket (k : Config) (command : Byte) (data : List Byte) : Decoded :=
  match k.queryOf command with
  | some q => decodeQuery q data
  | none => if command = k.cmdSlaveError then .ok (.slaveError data) else .reject .unknownCommand

/-- The op select (R95): all four values are defined, and there are no others in two bits. -/
def decodeOpSelect (b : Byte) : Decoded :=
  match b.toNat with
  | 0 => .ok .execute
  | 1 => .ok .encode
  | 2 => .ok .decode
  | 3 => .ok .iscomplete
  | _ => .reject .opSelectTooWide

/-- Decoding. One byte is an op select (R95); more are a command frame, selected by the command byte at offset 2, its
data at offset 4 with the length at offset 3 (R80, R81, R85). The markers, the checksum and what follows the frame are
no part of the selection: ENCODE writes them from the parameters (R110) and DECODE checks them (R116 to R119); log 4. -/
def decode (k : Config) : List Byte → Decoded
  | [] => .reject .nothing
  | [b] => decodeOpSelect b
  | _ :: _ :: command :: len :: rest =>
    if maxData < len.toNat then .reject .lengthExceedsMaxData
    else if rest.length < len.toNat + checksumSize + eopSize then .reject .truncatedFrame
    else decodePacket k command (rest.take len.toNat)
  | _ => .reject .truncatedFrame

/-- A query's request frame (R80, R85, R190). -/
def encodeQuery (k : Config) (q : Query) (index : Option Byte) : List Byte :=
  encodeFrame k (k.commandOf q) index.toList

/-- The words of an instruction (R80, R85, R95): the op select in one byte, or the whole frame. -/
def encode (k : Config) : Instr → List Byte
  | .execute => [0]
  | .encode => [1]
  | .decode => [2]
  | .iscomplete => [3]
  | .getModelName x => encodeQuery k .modelName x
  | .getProductName x => encodeQuery k .productName x
  | .getFirmwareVersion x => encodeQuery k .firmwareVersion x
  | .getSerialNumber x => encodeQuery k .serialNumber x
  | .getRuntime x => encodeQuery k .runtime x
  | .getProductionDate x => encodeQuery k .productionDate x
  | .getSensorData x => encodeQuery k .sensorData x
  | .getSensorTemperature x => encodeQuery k .sensorTemperature x
  | .getSensorDataFormat x => encodeQuery k .sensorDataFormat x
  | .getSensorName x => encodeQuery k .sensorName x
  | .slaveError data => encodeFrame k k.cmdSlaveError data

/-- The instruction R190 builds for a query: with `HAS_INDEX(q)`, the index byte; else no data. -/
def Query.request (k : Config) (q : Query) (index : Byte) : Instr :=
  q.instr (if k.hasIndex q then some index else none)

/-- The `n` bytes of a table word, most significant first: the table's pattern shows byte 0 leftmost (log 3). -/
def bytesOfWord : Nat → Nat → List Byte
  | 0, _ => []
  | n + 1, w => BitVec.ofNat 8 (w / 256 ^ n % 256) :: bytesOfWord n w

/-- How many bytes of a frame follow its header: the data its length byte announces, checksum and end marker (R81). -/
def bytesAfterHeader (head : List Byte) : Nat :=
  (head.getD 3 0).toNat + checksumSize + eopSize

/-- A table word laid out as bytes: an op select is one byte; a frame's four header bytes are followed by zeros, as many
as the frame has (log 3). -/
def tableBytes (nbits w : Nat) : List Byte :=
  if nbits ≤ 8 then [BitVec.ofNat 8 w]
  else
    let head := bytesOfWord ((nbits + 7) / 8) w
    head ++ List.replicate (bytesAfterHeader head) 0

/-- The instruction the decoder reads from a word of the opcode table, under the session's parameters. -/
def decodeTableWord (nbits w : Nat) : Option Instr :=
  match decode Config.session (tableBytes nbits w) with
  | .ok i => some i
  | .reject _ => none

end Sys2Proof
end

