-- ==== Sys2Proof/Machine/State.lean ====
section
/-! DEFINITION. The machine's state as plain data: the block's registers and buffers (layer L1), the environment state
the spec names, the client layer's state (L2), and the schedule of moves (spec/10_state.md R20; INVENTORY.md lists every
field); the reasons a step can stop; the state after reset (R45). -/

namespace Sys2Proof.Machine

/-- `Status`: the protocol's `ErrorCode` and the spec's four extension codes (R13, R230). Codes 2 and 5 exist and no rule
produces them (R117, R235). -/
inductive Status
  | noError | invalidStartMarker | invalidVersion | invalidChecksum | invalidEndMarker | unknownCommand
  | transportTimeout | slaveReportedError | armFailure | transmitFailure | waitFailure | requestRejected
  deriving DecidableEq, Repr

/-- `TSTATE` (R26). -/
inductive TState
  | idle | arm | send | wait
  deriving DecidableEq, Repr

/-- The unit operations, as `OPSEL` holds them (R27, R95). -/
inductive UnitOp
  | execute | encode | decode | iscomplete
  deriving DecidableEq, Repr

/-- One event of the transport event trace (R10). -/
inductive TransportEvent
  /-- `ARM(ok|fail)`. -/
  | arm (ok : Bool)
  /-- `TX(bytes, count, ok|fail)`. -/
  | tx (bytes : List Byte) (count : BitVec 9) (ok : Bool)
  /-- `ABORT`. -/
  | abort
  deriving DecidableEq, Repr

/-- `DATA_FORMAT` (R35). -/
structure DataFormat where
  decimalPoint : Byte
  unitCode : Byte
  resolutionInt : Byte
  resolutionExp : Byte
  deriving DecidableEq, Repr

/-- `SENSOR_DATA` (R35); `value` is signed, in ppm. -/
structure SensorData where
  status : Byte
  error : Byte
  value : Word
  deriving DecidableEq, Repr

/-- A query's typed result (R190 to R200). -/
inductive TypedResult
  /-- The bytes of a string and its terminator (R203). -/
  | string (bytes : List Byte)
  /-- The serial number (R194). -/
  | serialNumber (n : Word)
  /-- The run time (R195). -/
  | runtime (n : Word)
  /-- The raw payload of the production date (R196). -/
  | productionDate (payload : List Byte)
  /-- A measurement (R197). -/
  | measurement (d : SensorData)
  /-- The temperature: the exact rational `hundredths / 100` (R198, log 21). -/
  | temperature (hundredths : Int)
  /-- The data format (R199). -/
  | dataFormat (f : DataFormat)
  deriving DecidableEq, Repr

/-- What a query returns to its caller: the typed value, the error code (R190), and with `SlaveReportedError` the
secondary code (R201). -/
structure QueryResult where
  query : Query
  value : TypedResult
  status : Status
  slaveCode : Option SlaveErrorCode
  deriving DecidableEq, Repr

/-- What the host can write: the request registers and the buffer window (R40). -/
inductive WriteTarget
  | reqCmd
  | reqLen
  | reqData (i : Nat)
  | txbuf (offset : Nat)
  | rxbuf (offset : Nat)
  deriving DecidableEq, Repr

/-- What the host can read through the register access and the buffer window (R40). -/
inductive ReadTarget
  | rspCmd
  | rspLen
  | rspData (i : Nat)
  | txCount
  | txbuf (offset : Nat)
  | rxbuf (offset : Nat)
  deriving DecidableEq, Repr

/-- One move of an agent (R9, R40, R100); `State.inputs` lists the moves to come (log 2). -/
inductive Move
  /-- HOST or client: the words of an instruction are presented (an op select with `h_start`, or a command frame). -/
  | issue (bytes : List Byte)
  /-- HOST: a register write or a window write. -/
  | write (target : WriteTarget) (v : Byte)
  /-- HOST: a register read or a window read. -/
  | read (target : ReadTarget)
  /-- FSM: one step; `ok` is the transport's answer if the step calls a capability, `pick` the exit taken if several
  are enabled. -/
  | fsm (ok : Bool) (pick : WaitExit)
  /-- SLAVE: the sensor sends a byte. -/
  | slaveSend (v : Byte)
  /-- XPORT: the next byte of the inbound stream arrives at the deposit port. -/
  | deposit
  /-- XPORT: the level of `t_wait_fail`. -/
  | waitFail (level : Bool)
  /-- CLOCK: `NOW` advances by `n`. -/
  | tick (n : Nat)
  /-- CLOCK: `NOW` advances to `t`, if that is later. -/
  | clockTo (t : Nat)
  /-- The `reset` input is asserted. -/
  | reset
  deriving DecidableEq, Repr

/-- A byte buffer: its cells by rising offset, none equal to what an unlisted offset reads as (log 7). -/
abbrev Memory := List Host.Cell

/-- What an offset that is not listed reads as (R152 for a cleared buffer, R45 for `RSP_DATA`; log 7). -/
abbrev unlistedByte : Byte := 0x00

/-- The state of the machine. -/
structure State where
  -- Layer L1: the block (R20)
  reqCmd : Byte
  reqLen : Byte
  reqData : Memory
  rspCmd : Byte
  rspLen : Byte
  rspData : Memory
  err : Status
  tstate : TState
  opsel : UnitOp
  done : Bool
  rxArmed : Bool
  complete : Bool
  txbuf : Memory
  txCount : BitVec 9
  rxbuf : Memory
  t0 : Nat
  -- The environment (R20, R40, R50, R10)
  now : Nat
  rxWr : Nat
  waitFail : Bool
  outbound : List Byte
  inbound : List Byte
  trace : List TransportEvent
  -- Layer L2: the client (R35, R190, R207)
  dataFormat : DataFormat
  dataFormatFetched : Bool
  sensorData : Option SensorData
  query : Option Query
  result : Option QueryResult
  -- The model's own: the schedule, the host port's data out, the numbers of free values drawn (log 2, 8, 14, 17)
  inputs : List Move
  hostReadData : BitVec 9
  draws : Nat
  clientDraws : Nat
  deriving DecidableEq, Repr

/-- The four byte arrays with an address (R50). -/
inductive Space
  | txbuf | rxbuf | reqData | rspData
  deriving DecidableEq, Repr

/-- Why the machine stops with a fault. -/
inductive Fault
  /-- The host names an offset the array does not have (R50: the window's address is 9 bits wide, R40). Raised by a host
  write or read while it is honoured, never by an instruction (R58). Safe: log 14. -/
  | noSuchOffset (space : Space) (offset : Nat)
  deriving DecidableEq, Repr

/-- Why an instruction has no meaning. -/
inductive Refusal
  /-- The instruction has no meaning in the model yet. Raised by `exec`'s arms only; no arm raises it. Safe. -/
  | notModelled (mnemonic : String)
  /-- The bytes presented are no instruction. Raised by `step` when the decoder rejects them. Safe. -/
  | notAnInstruction (reason : Reject)
  deriving DecidableEq, Repr

/-- The machine right after reset (R45, R260). `REQ_*`, `OPSEL`, `TXBUF`, `RXBUF`, `T0` and `DATA_FORMAT` are unspecified
there and hold the values of log 5; the environment and the model's own fields those of log 6. -/
def State.reset : State where
  reqCmd := 0
  reqLen := 0
  reqData := []
  rspCmd := 0
  rspLen := 0
  rspData := []
  err := .noError
  tstate := .idle
  opsel := .execute
  done := false
  rxArmed := false
  complete := false
  txbuf := []
  txCount := 0
  rxbuf := []
  t0 := 0
  now := 0
  rxWr := 0
  waitFail := false
  outbound := []
  inbound := []
  trace := []
  dataFormat := ⟨0, 0, 0, 0⟩
  dataFormatFetched := false
  sensorData := none
  query := none
  result := none
  inputs := []
  hostReadData := 0
  draws := 0
  clientDraws := 0

end Sys2Proof.Machine
end

