-- ==== Sys2Proof/Machine/Ops.lean ====
section
/-! DEFINITION. The shared operations: reading and writing a buffer (spec/20_memory.md), the failure exit
(spec/60_exceptions.md R240) and what follows it (R242), START acceptance (R41), the block's side of the transport
capabilities (R160 to R163), the deposit step (R33). -/

namespace Sys2Proof.Machine

/-- The byte at an offset; an unlisted offset reads as `unlistedByte`. -/
def Memory.read : Memory → Nat → Byte
  | [], _ => unlistedByte
  | (b, v) :: m, a => if a = b then v else Memory.read m a

/-- Puts `v` in front unless that is what an unlisted offset reads as. -/
def Memory.cons (a : Nat) (v : Byte) (m : Memory) : Memory :=
  if v = unlistedByte then m else (a, v) :: m

/-- Writes one byte, keeping the canonical form. -/
def Memory.write : Memory → Nat → Byte → Memory
  | [], a, v => Memory.cons a v []
  | (b, w) :: m, a, v =>
    if a < b then Memory.cons a v ((b, w) :: m)
    else if a = b then Memory.cons a v m
    else (b, w) :: Memory.write m a v

/-- `MemRead` of a byte sequence, ascending (R12, R52). -/
def Memory.readBytes (m : Memory) : Nat → Nat → List Byte
  | _, 0 => []
  | a, n + 1 => Memory.read m a :: Memory.readBytes m (a + 1) n

/-- `MemWrite` of a byte sequence, ascending (R12, R52). -/
def Memory.writeBytes : Memory → Nat → List Byte → Memory
  | m, _, [] => m
  | m, a, b :: bs => Memory.writeBytes (Memory.write m a b) (a + 1) bs

/-- The first `n` positions of a function, as a list. -/
def bytesFrom (f : Nat → Byte) (start : Nat) : Nat → List Byte
  | 0 => []
  | n + 1 => f start :: bytesFrom f (start + 1) n

/-- A whole array of bytes given by a function of the offset. -/
@[irreducible] def Memory.ofFn (f : Nat → Byte) (n : Nat) : Memory :=
  Memory.writeBytes [] 0 (bytesFrom f 0 n)

/-- Offsets rise strictly from `lo` on, stay below `hi`, and no entry equals what an unlisted offset reads as. -/
def Memory.wfFrom (lo hi : Nat) : Memory → Bool
  | [] => true
  | (a, v) :: m => decide (lo ≤ a) && decide (a < hi) && decide (v ≠ unlistedByte) && Memory.wfFrom (a + 1) hi m

/-- The canonical form of a buffer of `depth` bytes. -/
def Memory.wf (depth : Nat) (m : Memory) : Bool := Memory.wfFrom 0 depth m

/-- `RSP_* <- 0`: all 251 data bytes too (R122, R240; the spec's choice D8). -/
def State.zeroResponse (s : State) : State :=
  { s with rspCmd := 0, rspLen := 0, rspData := [] }

/-- The end of an operation: `ERR` and `DONE` in the same step, `TSTATE` to IDLE (R23, R28). -/
def State.finish (s : State) (e : Status) : State :=
  { s with err := e, done := true, tstate := .idle }

/-- Taking an exception: the failure exit, `raise e` (R240). Nothing is saved and there is no handler; R242 gives no
return operation either: the next accepted START (`State.acceptStart`) is all that follows. -/
def State.failureExit (s : State) (e : Status) : State :=
  s.zeroResponse.finish e

/-- An accepted START latches `OPSEL` and clears `DONE` (R41). -/
def State.acceptStart (s : State) (op : UnitOp) : State :=
  { s with opsel := op, done := false }

/-- START: accepted exactly when `TSTATE = IDLE`, else ignored with no change (R41). -/
def startUnit (op : UnitOp) (body : State → State) (s : State) : State :=
  if s.tstate = .idle then body (s.acceptStart op) else s

/-- A capability call is one event of the trace (R10, R160). -/
def State.record (s : State) (e : TransportEvent) : State :=
  { s with trace := s.trace ++ [e] }

/-- `abortReceive()`: one event; the block's `RX_ARMED <- 0` in the same step (R163). -/
def State.abortReceive (s : State) : State :=
  { s.record .abort with rxArmed := false }

/-- `startReceive(RXBUF)` answers success: armed, and deposits restart at offset 0 (R153, R160). -/
def State.armReceive (s : State) : State :=
  { s with rxArmed := true, rxWr := 0 }

/-- Bytes reach the outbound stream, ascending (R50, R52). -/
def State.sendBytes (s : State) (bytes : List Byte) : State :=
  { s with outbound := s.outbound ++ bytes }

/-- The deposit step (R33): only while armed; bytes past the depth are dropped, the position still advances. -/
def State.depositByte (s : State) (v : Byte) : State :=
  if s.rxArmed then
    { s with
      rxbuf := if s.rxWr < rxDepth then Memory.write s.rxbuf s.rxWr v else s.rxbuf
      rxWr := s.rxWr + 1 }
  else s

/-- XPORT consumes the next inbound byte, if there is one, and attempts its deposit; while the path is not armed the byte
is lost (R33, R50, R63; log 24). -/
def State.depositNext (s : State) : State :=
  match s.inbound with
  | [] => s
  | v :: rest => { s with inbound := rest }.depositByte v

/-- Deposits one byte after the other. -/
def State.depositBytes : State → List Byte → State
  | s, [] => s
  | s, v :: rest => (s.depositByte v).depositBytes rest

/-- XPORT consumes the whole inbound stream. -/
def State.depositAll (s : State) : State :=
  { s with inbound := [] }.depositBytes s.inbound

/-- One more free value of layer L1 or its environment has been drawn. -/
def State.draw (s : State) : State :=
  { s with draws := s.draws + 1 }

end Sys2Proof.Machine
end

