-- ==== Sys2Proof/Machine/Operands.lean ====
section
/-! DEFINITION. Where operands come from: the request packet (spec/10_state.md R21), the fields of a received frame
(spec/30_encoding.md R82, R83), the payload of a response (spec/43_sensor_client.md R190), little-endian values (R11). -/

namespace Sys2Proof.Machine

/-- `le16(b0, b1) = b0 + 256*b1` (R11). -/
def le16 (b0 b1 : Byte) : Half := BitVec.ofNat 16 (b0.toNat + 256 * b1.toNat)

/-- `le32u(b0, b1, b2, b3)` (R11). -/
def le32u (b0 b1 b2 b3 : Byte) : Word :=
  BitVec.ofNat 32 (b0.toNat + 2 ^ 8 * b1.toNat + 2 ^ 16 * b2.toNat + 2 ^ 24 * b3.toNat)

/-- `le32s`: `le32u` read as two's complement (R11; general knowledge by the spec's own mark, log 26). -/
def le32s (b0 b1 b2 b3 : Byte) : Int :=
  let u : Int := (le32u b0 b1 b2 b3).toNat
  if u ≥ 2 ^ 31 then u - 2 ^ 32 else u

/-- The data of the outbound packet: `REQ_DATA[0 .. REQ_LEN)` (R21). -/
def State.requestData (s : State) : List Byte :=
  Memory.readBytes s.reqData 0 s.reqLen.toNat

/-- The length byte of a received frame, `L = B[3]`, zero-extended (R83). -/
def lengthByte (b : Memory) : Nat := (Memory.read b 3).toNat

/-- The bytes the received checksum covers, `B[0 .. 4+L)` (R82). -/
def coveredBytes (b : Memory) : List Byte := Memory.readBytes b 0 (headerSize + lengthByte b)

/-- The transmitted checksum, at offsets `4+L` and `5+L` (R82, R83). -/
def transmittedChecksum (b : Memory) : Half :=
  le16 (Memory.read b (headerSize + lengthByte b)) (Memory.read b (headerSize + lengthByte b + 1))

/-- The end marker, at offset `6+L` (R83). -/
def receivedEndMarker (b : Memory) : Byte := Memory.read b (headerSize + lengthByte b + checksumSize)

/-- The data of a received frame, `B[4 .. 4+L)` (R83). -/
def receivedData (b : Memory) : List Byte := Memory.readBytes b headerSize (lengthByte b)

/-- The frame the transport sends: `TXBUF[0 .. TX_COUNT)` (R29, R161). -/
def State.txFrame (s : State) : List Byte := Memory.readBytes s.txbuf 0 s.txCount.toNat

/-- The payload of a response after the optional index byte, `RSP_DATA[k .. RSP_LEN)` (R190). -/
def State.payload (s : State) (hasIndex : Bool) : List Byte :=
  let j := if hasIndex then 1 else 0
  Memory.readBytes s.rspData j (s.rspLen.toNat - j)

end Sys2Proof.Machine
end

