-- ==== Sys2Proof/Machine/Flags.lean ====
section
/-! DEFINITION. The flags and status outputs (spec/10_state.md R28, R40), the numeric codes (R26, R95, R230), the
completion test (spec/40_packet_codec.md R125), the enabled exits of WAIT (R156), the measurement's status bits (R205). -/

namespace Sys2Proof.Machine

/-- The numeric codes of `ERR` (R230). -/
def Status.code : Status → BitVec 4
  | .noError => 0
  | .invalidStartMarker => 1
  | .invalidVersion => 2
  | .invalidChecksum => 3
  | .invalidEndMarker => 4
  | .unknownCommand => 5
  | .transportTimeout => 6
  | .slaveReportedError => 7
  | .armFailure => 8
  | .transmitFailure => 9
  | .waitFailure => 10
  | .requestRejected => 11

/-- The numeric codes of `TSTATE` (R26). -/
def TState.code : TState → BitVec 2
  | .idle => 0
  | .arm => 1
  | .send => 2
  | .wait => 3

/-- The numeric codes of `OPSEL` (R95). -/
def UnitOp.code : UnitOp → BitVec 2
  | .execute => 0
  | .encode => 1
  | .decode => 2
  | .iscomplete => 3

/-- `BUSY`, which is also `h_busy` (R28, R40). -/
def State.busy (s : State) : Bool := decide (s.tstate ≠ .idle)

/-- `h_done` (R40). -/
def State.hDone (s : State) : Bool := s.done

/-- `h_err` (R40). -/
def State.hErr (s : State) : BitVec 4 := s.err.code

/-- `h_complete` (R40). -/
def State.hComplete (s : State) : Bool := s.complete

/-- ISCOMPLETE's test (R125): the length byte and the byte at `L + COMPLETE_BASE` are both non-zero. -/
def iscomplete (b : Memory) : Bool :=
  decide (Memory.read b 3 ≠ 0) && decide (Memory.read b (lengthByte b + completeBase) ≠ 0)

/-- `NOW - T0 >= TIMEOUT` (R158). -/
def State.timedOut (k : Config) (s : State) : Bool := decide (k.timeout ≤ s.now - s.t0)

/-- Whether an exit of WAIT is enabled in this step (R156 to R159). -/
def State.exitEnabled (k : Config) (s : State) : WaitExit → Bool
  | .completion => iscomplete s.rxbuf
  | .timeout => s.timedOut k
  | .waitFailure => s.waitFail

/-- The exit a WAIT step takes: the picked one if it is enabled, else one that is; none if none is (R156, log 11). -/
def State.chosenExit (k : Config) (pick : WaitExit) (s : State) : Option WaitExit :=
  [pick, .completion, .timeout, .waitFailure].find? (s.exitEnabled k)

/-- The four flags of a measurement's status byte, at the parameters' positions (R205). -/
def SensorData.flag (d : SensorData) (position : Fin 8) : Bool := d.status.getLsbD position.val

/-- The data-not-reliable flag (R205). -/
def SensorData.notReliable (k : Config) (d : SensorData) : Bool := d.flag k.stNotReliable

/-- The warmup flag (R205). -/
def SensorData.warmup (k : Config) (d : SensorData) : Bool := d.flag k.stWarmup

/-- The lamp flag (R205). -/
def SensorData.lamp (k : Config) (d : SensorData) : Bool := d.flag k.stLamp

/-- The calibration flag (R205). -/
def SensorData.calibration (k : Config) (d : SensorData) : Bool := d.flag k.stCalibration

end Sys2Proof.Machine
end

