-- ==== Sys2Proof/Machine/Codec.lean ====
section
/-! DEFINITION. PacketCodec: ENCODE, DECODE and ISCOMPLETE (spec/40_packet_codec.md), as operations of the FSM and as
host-started instructions (R130). -/

namespace Sys2Proof.Machine

/-- ENCODE's register effect (R110): the frame of the request packet to `TXBUF[0 .. 7+n)`, `TX_COUNT <- 7+n`. Used only
when `REQ_LEN ≤ 251` (R111). -/
def State.encodeRequest (k : Config) (s : State) : State :=
  let frame := encodeFrame k s.reqCmd s.requestData
  { s with txbuf := Memory.writeBytes s.txbuf 0 frame, txCount := BitVec.ofNat 9 frame.length }

/-- DECODE's checks in their fixed order (R115 to R119): the first that fails decides. Step 2 can never fail after step 1
(R117) and stands here as the spec keeps it. -/
def checkFrame (k : Config) (b : Memory) : Option Status :=
  if Memory.read b 0 ≠ k.sop ∨ Memory.read b 1 ≠ k.ver then some .invalidStartMarker
  else if Memory.read b 1 ≠ k.ver then some .invalidVersion
  else if receivedEndMarker b ≠ k.eop then some .invalidEndMarker
  else if transmittedChecksum b ≠ k.ck (coveredBytes b) then some .invalidChecksum
  else none

/-- Step 6 (R121). -/
def statusOfCommand (k : Config) (command : Byte) : Status :=
  if command = k.cmdSlaveError then .slaveReportedError else .noError

/-- Step 5 with `L ≤ 251`, and step 6 (R120, R121): `RSP_DATA` at and above `L` is not written (log 9). -/
def State.acceptFrame (k : Config) (s : State) : State :=
  { s with
    rspLen := Memory.read s.rxbuf 3
    rspCmd := Memory.read s.rxbuf 2
    rspData := Memory.writeBytes s.rspData 0 (receivedData s.rxbuf)
    err := statusOfCommand k (Memory.read s.rxbuf 2) }

/-- Step 5's guard path, `L` in 252 to 255 (R120, U3): a model treats `RSP_CMD`, `RSP_LEN`, `RSP_DATA` and the choice between
`NoError` and `SlaveReportedError` as unspecified, so they are free values (log 8). -/
def State.guardPath (s : State) : State :=
  { s.draw with
    rspCmd := Config.freeByte s.draws 0
    rspLen := Config.freeByte s.draws 1
    rspData := Memory.ofFn (fun i => Config.freeByte s.draws (2 + i)) maxData
    err := if Config.freeChoice s.draws 0 then .slaveReportedError else .noError }

/-- DECODE (R115): `RXBUF` to `RSP_*` and `ERR`. A failing check resets the outputs (R122). -/
def State.decodeResponse (k : Config) (s : State) : State :=
  match checkFrame k s.rxbuf with
  | some e => { s.zeroResponse with err := e }
  | none => if lengthByte s.rxbuf ≤ maxData then s.acceptFrame k else s.guardPath

/-- Host-started ENCODE (R111, R130): an oversize request is rejected before a byte is written; `RSP_*` stay. -/
def State.hostEncode (k : Config) (s : State) : State :=
  if maxData < s.reqLen.toNat then s.finish .requestRejected
  else (s.encodeRequest k).finish .noError

/-- Host-started DECODE (R130). -/
def State.hostDecode (k : Config) (s : State) : State :=
  let t := s.decodeResponse k
  t.finish t.err

/-- Host-started ISCOMPLETE (R130). -/
def State.hostIscomplete (s : State) : State :=
  { s with complete := iscomplete s.rxbuf }.finish .noError

/-- ENCODE (R110, R130). -/
def execEncode (s : State) : Host.Outcome State Fault Refusal :=
  .next (startUnit .encode (State.hostEncode Config.session) s)

/-- DECODE (R115, R130). -/
def execDecode (s : State) : Host.Outcome State Fault Refusal :=
  .next (startUnit .decode (State.hostDecode Config.session) s)

/-- ISCOMPLETE (R125, R130). -/
def execIscomplete (s : State) : Host.Outcome State Fault Refusal :=
  .next (startUnit .iscomplete State.hostIscomplete s)

end Sys2Proof.Machine
end

