-- ==== Sys2Proof/Machine/Transaction.lean ====
section
/-! DEFINITION. TransactionController: EXECUTE and the steps of the transaction FSM (spec/42_transaction_controller.md).
Everything here is layer L1; what the client does at the end of a transaction is Client.lean's. -/

namespace Sys2Proof.Machine

/-- Step START (R151): an oversize request ends at once through the failure exit; else `TSTATE <- ARM`. -/
def State.startExecute (s : State) : State :=
  if maxData < s.reqLen.toNat then s.failureExit .requestRejected else { s with tstate := .arm }

/-- Step ARM, first half (R152): every byte of `RXBUF` is 0x00. -/
def State.clearRx (s : State) : State := { s with rxbuf := [] }

/-- Step ARM (R152, R153, R160): clear, then `startReceive` with the answer `ok`. On failure nothing was sent and nothing
is aborted. -/
def State.armStep (ok : Bool) (s : State) : State :=
  let s := s.clearRx.record (.arm ok)
  if ok then { s.armReceive with tstate := .send } else s.failureExit .armFailure

/-- The bytes of a failed transmission that reached the wire: an unspecified number of the first ones (R161, log 12). -/
def State.sendPart (s : State) : State :=
  (s.sendBytes (s.txFrame.take (Config.freeNat s.draws))).draw

/-- Step SEND (R154, R155, R161): encode, then `transmit` with the answer `ok`; on success the window opens, on failure the
receive path is aborted. -/
def State.sendStep (k : Config) (ok : Bool) (s : State) : State :=
  let s := s.encodeRequest k
  let s := s.record (.tx s.txFrame s.txCount ok)
  if ok then { s.sendBytes s.txFrame with t0 := s.now, tstate := .wait }
  else s.sendPart.abortReceive.failureExit .transmitFailure

/-- One exit of WAIT: abort, then DECODE on the stable buffer (R157), or the failure exit (R158, R159). -/
def State.takeExit (k : Config) (s : State) : WaitExit → State
  | .completion => s.abortReceive.hostDecode k
  | .timeout => s.abortReceive.failureExit .transportTimeout
  | .waitFailure => s.abortReceive.failureExit .waitFailure

/-- Step WAIT (R156): the chosen enabled exit, or no change. -/
def State.waitStep (k : Config) (pick : WaitExit) (s : State) : State :=
  match s.chosenExit k pick with
  | some e => s.takeExit k e
  | none => s

/-- One FSM step of the block (R170). In IDLE there is none to take. -/
def State.blockStep (k : Config) (ok : Bool) (pick : WaitExit) (s : State) : State :=
  match s.tstate with
  | .idle => s
  | .arm => s.armStep ok
  | .send => s.sendStep k ok
  | .wait => s.waitStep k pick

/-- EXECUTE (R150, R151): the START step; the FSM takes the others. -/
def execExecute (s : State) : Host.Outcome State Fault Refusal :=
  .next (startUnit .execute State.startExecute s)

end Sys2Proof.Machine
end

