-- ==== Sys2Proof/Machine/Client.lean ====
section
/-! DEFINITION. SensorClient, layer L2 (spec/43_sensor_client.md): the queries, their conversions and fallbacks, and what
the client does when its transaction ends; the slave-error frame (R201). -/

namespace Sys2Proof.Machine

/-- `string(P)`: the bytes and one terminator 0x00 (R203, log 26). -/
def stringOf (p : List Byte) : TypedResult := .string (p ++ [0x00])

/-- One character of a serial number (R194): a digit extends the number modulo 2^32, another byte is skipped. -/
def serialStep (n : Word) (b : Byte) : Word :=
  if 0x30 ≤ b.toNat ∧ b.toNat ≤ 0x39 then BitVec.ofNat 32 (n.toNat * 10 + (b.toNat - 0x30)) else n

/-- The serial number of a payload, left to right (R194). -/
def serialOf (p : List Byte) : Word := p.foldl serialStep 0

/-- Division by 100 rounding half away from zero (R197). -/
def roundHundredths (raw : Int) : Int :=
  let q : Int := ((raw.natAbs + 50) / 100 : Nat)
  if raw ≥ 0 then q else -q

/-- A free typed result of a query's type (R206, log 17). -/
def freeResult (q : Query) (draw : Nat) : TypedResult :=
  match q with
  | .modelName | .productName | .firmwareVersion | .sensorName => .string (Config.freeBytes draw)
  | .serialNumber => .serialNumber (Config.freeWord draw)
  | .runtime => .runtime (Config.freeWord draw)
  | .productionDate => .productionDate (Config.freeBytes draw)
  | .sensorData =>
    .measurement ⟨Config.freeClientByte draw 0, Config.freeClientByte draw 1, Config.freeWord draw⟩
  | .sensorTemperature => .temperature (Config.freeInt draw)
  | .sensorDataFormat =>
    .dataFormat ⟨Config.freeClientByte draw 0, Config.freeClientByte draw 1, Config.freeClientByte draw 2,
      Config.freeClientByte draw 3⟩

/-- Run time: 4 bytes, unsigned little-endian (R195). -/
def runtimeOf : List Byte → Option TypedResult
  | b0 :: b1 :: b2 :: b3 :: _ => some (.runtime (le32u b0 b1 b2 b3))
  | _ => none

/-- Measurement: status, error, 4 bytes signed little-endian divided by 100 (R197). -/
def measurementOf : List Byte → Option TypedResult
  | status :: error :: b0 :: b1 :: b2 :: b3 :: _ =>
    some (.measurement ⟨status, error, BitVec.ofInt 32 (roundHundredths (le32s b0 b1 b2 b3))⟩)
  | _ => none

/-- Temperature: 4 bytes signed little-endian, exactly divided by 100 (R198). -/
def temperatureOf : List Byte → Option TypedResult
  | b0 :: b1 :: b2 :: b3 :: _ => some (.temperature (le32s b0 b1 b2 b3))
  | _ => none

/-- Data format: four direct byte fields (R199). -/
def dataFormatOf : List Byte → Option TypedResult
  | b0 :: b1 :: b2 :: b3 :: _ => some (.dataFormat ⟨b0, b1, b2, b3⟩)
  | _ => none

/-- `convert_q(P)` (R191 to R200); none where the payload is shorter than the layout the query reads (R206). -/
def convert (q : Query) (p : List Byte) : Option TypedResult :=
  match q with
  | .modelName => some (stringOf p)
  | .productName => some (stringOf p)
  | .firmwareVersion => some (stringOf p)
  | .serialNumber => some (.serialNumber (serialOf p))
  | .runtime => runtimeOf p
  | .productionDate => some (.productionDate p)
  | .sensorData => measurementOf p
  | .sensorTemperature => temperatureOf p
  | .sensorDataFormat => dataFormatOf p
  | .sensorName => some (stringOf p)

/-- The fallback values (R204). -/
def fallback : Query → TypedResult
  | .modelName => stringOf []
  | .productName => stringOf []
  | .firmwareVersion => stringOf []
  | .serialNumber => .serialNumber 0
  | .runtime => .runtime 0
  | .productionDate => .productionDate []
  | .sensorData => .measurement ⟨0xFF, 0xFF, 0⟩
  | .sensorTemperature => .temperature 0
  | .sensorDataFormat => .dataFormat ⟨0, 0, 0, 0⟩
  | .sensorName => stringOf []

/-- The typed value a query returns (R190, R204): the fallback on any error; on success the converted payload, and a free
value where the response is no well-formed packet or its payload is too short (R22, R206, log 17). -/
def State.typedResult (k : Config) (s : State) (q : Query) : TypedResult :=
  if s.err ≠ .noError then fallback q
  else if maxData < s.rspLen.toNat then freeResult q s.clientDraws
  else (convert q (s.payload (k.hasIndex q))).getD (freeResult q s.clientDraws)

/-- The slave error codes whose parameter value is the byte `b` (R201). -/
def slaveCodesOf (k : Config) (b : Byte) : List SlaveErrorCode :=
  [.unknown, .invalidCommand, .invalidDataSize, .invalidValue, .notPermitted, .operationFailed].filter
    (fun c => decide (k.slaveErr c = b))

/-- The secondary slave error code (R201): the one code whose value stands at `SLAVE_ERR_POS` of the payload; free where
the parameters do not determine one (log 20). -/
def State.secondaryCode (k : Config) (s : State) : Option SlaveErrorCode :=
  if k.slaveErrPos < s.rspLen.toNat ∧ s.rspLen.toNat ≤ maxData then
    match slaveCodesOf k (Memory.read s.rspData k.slaveErrPos) with
    | [c] => some c
    | _ => Config.freeSlaveError s.clientDraws
  else Config.freeSlaveError s.clientDraws

/-- `DATA_FORMAT` and `SENSOR_DATA` after a query returned `v` (R35, R197, R199, R207; log 18). -/
def State.storeResult (s : State) (v : TypedResult) : State :=
  match v with
  | .measurement d => { s with sensorData := some d }
  | .dataFormat f =>
    if s.dataFormatFetched then s
    else { s with dataFormat := f, dataFormatFetched := decide (s.err = .noError) }
  | .string _ | .serialNumber _ | .runtime _ | .productionDate _ | .temperature _ => s

/-- The client's part of a transaction's end (R190): if a query is in flight, its result is returned. -/
def State.deliver (k : Config) (s : State) : State :=
  match s.query with
  | none => s
  | some q =>
    let v := s.typedResult k q
    { s.storeResult v with
      query := none
      result := some
        { query := q
          value := v
          status := s.err
          slaveCode := if s.err = .slaveReportedError then s.secondaryCode k else none }
      clientDraws := s.clientDraws + 1 }

/-- One FSM step (R170); when it ends the transaction, the client's query returns (log 16). -/
def State.fsmStep (k : Config) (ok : Bool) (pick : WaitExit) (s : State) : State :=
  let t := s.blockStep k ok pick
  if s.tstate ≠ .idle ∧ t.tstate = .idle then t.deliver k else t

/-- R190's first lines: `REQ_CMD`, `REQ_LEN` and `REQ_DATA` of a query. -/
def State.writeRequest (k : Config) (q : Query) (index : Byte) (s : State) : State :=
  { s with
    reqCmd := k.commandOf q
    reqLen := if k.hasIndex q then 1 else 0
    reqData := if k.hasIndex q then Memory.write s.reqData 0 index else s.reqData }

/-- The client notes the query it waits for; results of earlier calls are not retained (R35, log 16, 22). -/
def State.openQuery (q : Query) (s : State) : State :=
  { s with query := some q, result := none, sensorData := none }

/-- R190 up to EXECUTE: the request, then START. While the block is busy its writes and START are ignored (R40, R41), so
the whole query is (log 15). A query without an operand sends index 0x00 (R190's basic topology). -/
def State.launch (k : Config) (q : Query) (index : Option Byte) (s : State) : State :=
  startUnit .execute (fun s => ((s.writeRequest k q (index.getD 0x00)).openQuery q).startExecute) s

/-- GET_MODEL_NAME (R191). -/
def execGetModelName (index : Option Byte) (s : State) : Host.Outcome State Fault Refusal :=
  .next (s.launch Config.session .modelName index)

/-- GET_PRODUCT_NAME (R192). -/
def execGetProductName (index : Option Byte) (s : State) : Host.Outcome State Fault Refusal :=
  .next (s.launch Config.session .productName index)

/-- GET_FIRMWARE_VERSION (R193). -/
def execGetFirmwareVersion (index : Option Byte) (s : State) : Host.Outcome State Fault Refusal :=
  .next (s.launch Config.session .firmwareVersion index)

/-- GET_SERIAL_NUMBER (R194). -/
def execGetSerialNumber (index : Option Byte) (s : State) : Host.Outcome State Fault Refusal :=
  .next (s.launch Config.session .serialNumber index)

/-- GET_RUNTIME (R195). -/
def execGetRuntime (index : Option Byte) (s : State) : Host.Outcome State Fault Refusal :=
  .next (s.launch Config.session .runtime index)

/-- GET_PRODUCTION_DATE (R196). -/
def execGetProductionDate (index : Option Byte) (s : State) : Host.Outcome State Fault Refusal :=
  .next (s.launch Config.session .productionDate index)

/-- GET_SENSOR_DATA (R197). -/
def execGetSensorData (index : Option Byte) (s : State) : Host.Outcome State Fault Refusal :=
  .next (s.launch Config.session .sensorData index)

/-- GET_SENSOR_TEMPERATURE (R198). -/
def execGetSensorTemperature (index : Option Byte) (s : State) : Host.Outcome State Fault Refusal :=
  .next (s.launch Config.session .sensorTemperature index)

/-- GET_SENSOR_DATA_FORMAT (R199, R207). -/
def execGetSensorDataFormat (index : Option Byte) (s : State) : Host.Outcome State Fault Refusal :=
  .next (s.launch Config.session .sensorDataFormat index)

/-- GET_SENSOR_NAME (R200). -/
def execGetSensorName (index : Option Byte) (s : State) : Host.Outcome State Fault Refusal :=
  .next (s.launch Config.session .sensorName index)

/-- The FSM moves and the environment's choices are free values (log 2). -/
def State.fsmFree (k : Config) (s : State) : State :=
  if s.tstate = .idle then s
  else s.draw.fsmStep k (Config.freeAnswer s.draws) (Config.freeExit s.draws)

/-- The sensor answers with a slave-error frame (R201): the SLAVE sends it, XPORT deposits what is on the inbound stream,
and if the block waits, the FSM polls once (log 19). Data beyond 251 bytes is no packet (R111) and no decoded instruction; the
bytes sent for it are `encodeFrame`'s all the same: DESIGN CHOICE (log 30). -/
def State.slaveReport (k : Config) (data : List Byte) (s : State) : State :=
  let t := { s with inbound := s.inbound ++ encodeFrame k k.cmdSlaveError data }.depositAll
  if t.tstate = .wait then t.fsmFree k else t

/-- SLAVE_ERROR (R201, R121). -/
def execSlaveError (data : List Byte) (s : State) : Host.Outcome State Fault Refusal :=
  .next (s.slaveReport Config.session data)

end Sys2Proof.Machine
end

