-- ==== Sys2Proof/Machine/Ports.lean ====
section
/-! DEFINITION. What the other agents do to the machine between FSM steps (spec/10_state.md R40, R33, spec/00_scope.md
R9): host writes and reads, the sensor, the transport, the clock, reset (R45, R260, R261). -/

namespace Sys2Proof.Machine

/-- The machine's outcomes. -/
abbrev Result := Host.Outcome State Fault Refusal

/-- A host write while the block is idle (R21, R40, R50). -/
def State.hostStore (s : State) (v : Byte) : WriteTarget → Result
  | .reqCmd => .next { s with reqCmd := v }
  | .reqLen => .next { s with reqLen := v }
  | .reqData i =>
    if i < maxData then .next { s with reqData := Memory.write s.reqData i v } else .fault (.noSuchOffset .reqData i)
  | .txbuf a =>
    if a < txDepth then .next { s with txbuf := Memory.write s.txbuf a v } else .fault (.noSuchOffset .txbuf a)
  | .rxbuf a =>
    if a < rxDepth then .next { s with rxbuf := Memory.write s.rxbuf a v } else .fault (.noSuchOffset .rxbuf a)

/-- A host write: ignored while `TSTATE ≠ IDLE` (R40). -/
def State.hostWrite (s : State) (target : WriteTarget) (v : Byte) : Result :=
  if s.tstate = .idle then s.hostStore v target else .next s

/-- What a host read returns (R40, R55): no other effect. -/
def State.returnRead (s : State) (v : BitVec 9) : State := { s with hostReadData := v }

/-- A buffer window read (R40): the byte while idle; while busy the value is unspecified, a free value (log 14). -/
def State.windowRead (s : State) (space : Space) (buffer : Memory) (depth a : Nat) : Result :=
  if s.tstate = .idle then
    if a < depth then .next (s.returnRead ((Memory.read buffer a).setWidth 9)) else .fault (.noSuchOffset space a)
  else .next (s.draw.returnRead ((Config.freeByte s.draws 0).setWidth 9))

/-- A host read: the result registers and `TX_COUNT` at any time (R22, R40), the buffers through the window. -/
def State.hostRead (s : State) : ReadTarget → Result
  | .rspCmd => .next (s.returnRead (s.rspCmd.setWidth 9))
  | .rspLen => .next (s.returnRead (s.rspLen.setWidth 9))
  | .rspData i =>
    if i < maxData then .next (s.returnRead ((Memory.read s.rspData i).setWidth 9))
    else .fault (.noSuchOffset .rspData i)
  | .txCount => .next (s.returnRead s.txCount)
  | .txbuf a => s.windowRead .txbuf s.txbuf txDepth a
  | .rxbuf a => s.windowRead .rxbuf s.rxbuf rxDepth a

/-- An op select nothing is known of. -/
def freeUnitOp (draw : Nat) : UnitOp :=
  match Config.freeChoice draw 0, Config.freeChoice draw 1 with
  | false, false => .execute
  | false, true => .encode
  | true, false => .decode
  | true, true => .iscomplete

/-- `reset` asserted while the machine runs (R45, R260, R261): the values of R45 in one step, free values where R45 leaves
one unspecified, the environment untouched, no `abortReceive`, no result for a transaction under way; the client's
waiting call is abandoned with it (log 13). -/
def State.resetInput (s : State) : State :=
  { s with
    reqCmd := Config.freeByte s.draws 0
    reqLen := Config.freeByte s.draws 1
    reqData := Memory.ofFn (fun i => Config.freeByte s.draws (1000 + i)) maxData
    rspCmd := 0
    rspLen := 0
    rspData := []
    err := .noError
    tstate := .idle
    opsel := freeUnitOp s.draws
    done := false
    rxArmed := false
    complete := false
    txbuf := Memory.ofFn (fun i => Config.freeByte s.draws (2000 + i)) txDepth
    txCount := 0
    rxbuf := Memory.ofFn (fun i => Config.freeByte s.draws (3000 + i)) rxDepth
    t0 := Config.freeNat s.draws
    dataFormat := ⟨Config.freeClientByte s.clientDraws 0, Config.freeClientByte s.clientDraws 1,
      Config.freeClientByte s.clientDraws 2, Config.freeClientByte s.clientDraws 3⟩
    dataFormatFetched := false
    query := none
    draws := s.draws + 1
    clientDraws := s.clientDraws + 1 }

/-- One move of an agent other than the presenting of an instruction (R9, R40, R100), under the parameters `k`. -/
def State.environment (k : Config) (s : State) : Move → Result
  | .issue _ => .next s
  | .write target v => s.hostWrite target v
  | .read target => s.hostRead target
  | .fsm ok pick => .next (s.fsmStep k ok pick)
  | .slaveSend v => .next { s with inbound := s.inbound ++ [v] }
  | .deposit => .next s.depositNext
  | .waitFail level => .next { s with waitFail := level }
  | .tick n => .next { s with now := s.now + n }
  | .clockTo t => .next { s with now := max s.now t }
  | .reset => .next s.resetInput

end Sys2Proof.Machine
end

