-- ==== Sys2Proof/Machine/Dispatch.lean ====
section
/-! DEFINITION. One arm per instruction. -/

namespace Sys2Proof.Machine

/-- What an instruction does in a state. -/
def exec (i : Instr) (s : State) : Host.Outcome State Fault Refusal :=
  match i with
  | .execute => Sys2Proof.Machine.execExecute s
  | .encode => Sys2Proof.Machine.execEncode s
  | .decode => Sys2Proof.Machine.execDecode s
  | .iscomplete => Sys2Proof.Machine.execIscomplete s
  | .getModelName index => Sys2Proof.Machine.execGetModelName index s
  | .getProductName index => Sys2Proof.Machine.execGetProductName index s
  | .getFirmwareVersion index => Sys2Proof.Machine.execGetFirmwareVersion index s
  | .getSerialNumber index => Sys2Proof.Machine.execGetSerialNumber index s
  | .getRuntime index => Sys2Proof.Machine.execGetRuntime index s
  | .getProductionDate index => Sys2Proof.Machine.execGetProductionDate index s
  | .getSensorData index => Sys2Proof.Machine.execGetSensorData index s
  | .getSensorTemperature index => Sys2Proof.Machine.execGetSensorTemperature index s
  | .getSensorDataFormat index => Sys2Proof.Machine.execGetSensorDataFormat index s
  | .getSensorName index => Sys2Proof.Machine.execGetSensorName index s
  | .slaveError data => Sys2Proof.Machine.execSlaveError data s

end Sys2Proof.Machine
end

