-- ==== Sys2Proof/Machine/Step.lean ====
section
/-! DEFINITION. One step of the machine, and how an instruction comes to be its next (log 2, log 3). -/

namespace Sys2Proof.Machine

/-- The words presented are decoded and run; a rejected one is refused by name. -/
def runIssued (bytes : List Byte) (s : State) : Host.Outcome State Fault Refusal :=
  match decode Config.session bytes with
  | .ok i => exec i s
  | .reject r => .refused (.notAnInstruction r)

/-- One step: the next move of the schedule; with an empty schedule the FSM goes on alone, and an idle block waits for a
START (R26, R173, R260). -/
def step (s : State) : Host.Outcome State Fault Refusal :=
  match s.inputs with
  | [] => .next (s.fsmFree Config.session)
  | .issue bytes :: rest => runIssued bytes { s with inputs := rest }
  | m :: rest => { s with inputs := rest }.environment Config.session m

/-- `s` with the instruction of a table word as the next move of its schedule. -/
def State.withFetchWord (s : State) (nbits w : Nat) : State :=
  { s with inputs := .issue (tableBytes nbits w) :: s.inputs }

end Sys2Proof.Machine
end

