-- ==== Sys2Proof/Safety.lean ====
section
/-! DEFINITION. What a safe run is, in the terms the statements use: the machine's invariant, runs without a reset, what
the trace counts, and what a state shows of layer L1. -/

namespace Sys2Proof.Machine

/-- The outcome is a next state. -/
def Completes (o : Host.Outcome State Fault Refusal) : Prop := ∃ s, o = .next s

/-- The invariant of the machine under the parameters `k`. -/
structure Inv (k : Config) (s : State) : Prop where
  /-- The four arrays keep their canonical form and their depth (R50). -/
  reqData_wf : Memory.wf maxData s.reqData = true
  rspData_wf : Memory.wf maxData s.rspData = true
  txbuf_wf : Memory.wf txDepth s.txbuf = true
  rxbuf_wf : Memory.wf rxDepth s.rxbuf = true
  /-- The receive path is armed exactly in SEND and WAIT (R28, R153, R163). -/
  armed_iff : s.rxArmed = true ↔ (s.tstate = .send ∨ s.tstate = .wait)
  /-- A transaction runs only for an admitted request (R151), under `OPSEL = EXECUTE` with `DONE = 0` (R41). -/
  busy_len : s.tstate ≠ .idle → s.reqLen.toNat ≤ maxData
  busy_op : s.tstate ≠ .idle → s.opsel = .execute
  busy_not_done : s.tstate ≠ .idle → s.done = false
  /-- While armed, nothing stands in `RXBUF` at or above the deposit position (R33, R61). -/
  deposits_below : s.rxArmed = true → Memory.wfFrom 0 (min s.rxWr rxDepth) s.rxbuf = true
  /-- In WAIT, `TXBUF` holds the request's frame (R64, R67), and the window opened in the past (R32). -/
  wait_frame : s.tstate = .wait → s.txFrame = encodeFrame k s.reqCmd s.requestData
  wait_open : s.tstate = .wait → s.t0 ≤ s.now
  /-- A query waits only while its transaction runs (R190). -/
  query_busy : s.query ≠ none → s.tstate ≠ .idle
  /-- `TX_COUNT` is 0 until the first ENCODE, then 7 to 258 (R29). -/
  count_range : s.txCount = 0 ∨ (frameOverhead ≤ s.txCount.toNat ∧ s.txCount.toNat ≤ txDepth)
  /-- The reserved codes are never in `ERR` (R117, R235). -/
  err_not_reserved : s.err ≠ .invalidVersion ∧ s.err ≠ .unknownCommand
  /-- After a failed EXECUTE or DECODE the outputs are zero (R22, R122, R240). -/
  failure_clean : s.done = true → (s.opsel = .execute ∨ s.opsel = .decode) → s.err ≠ .noError →
    s.err ≠ .slaveReportedError → s.rspCmd = 0 ∧ s.rspLen = 0 ∧ s.rspData = []

/-- The next move is not the reset input. -/
def State.resetNotNext (s : State) : Prop := s.inputs.head? ≠ some .reset

/-- Runs of steps in which the reset input is never asserted (R261 sets such a step outside). -/
inductive Run : State → State → Prop
  | refl (s : State) : Run s s
  | step {s t u : State} : Run s t → t.resetNotNext → step t = .next u → Run s u

/-- From an idle state `s`, one transaction up to the state `t` and no further: the step that leaves IDLE, then steps of a busy
block, the reset input never asserted (R150, R261). It has run to its end when `t` is idle. -/
inductive Transaction : State → State → Prop
  | start {s t : State} : s.tstate = .idle → s.resetNotNext → step s = .next t → t.tstate ≠ .idle → Transaction s t
  | on {s t u : State} : Transaction s t → t.tstate ≠ .idle → t.resetNotNext → step t = .next u → Transaction s u

/-- `ARM(ok)` events of a trace (R171). -/
def armedCount (trace : List TransportEvent) : Nat := trace.countP (· = .arm true)

/-- `ABORT` events of a trace (R171). -/
def abortCount (trace : List TransportEvent) : Nat := trace.countP (· = .abort)

/-- `TX` events of a trace (R172). -/
def transmitCount (trace : List TransportEvent) : Nat :=
  trace.countP (fun e => match e with | .tx _ _ _ => true | .arm _ => false | .abort => false)

/-- A state with the client layer's fields set aside: what layer L1, its environment and the schedule hold (R4). -/
def State.forgetClient (s : State) : State :=
  { s with
    dataFormat := ⟨0, 0, 0, 0⟩
    dataFormatFetched := false
    sensorData := none
    query := none
    result := none
    clientDraws := 0 }

/-- An outcome with the client layer's fields set aside. -/
def forgetClientOutcome : Host.Outcome State Fault Refusal → Host.Outcome State Fault Refusal
  | .next s => .next s.forgetClient
  | .fault r => .fault r
  | .refused r => .refused r

end Sys2Proof.Machine
end

