-- ==== Sys2Proof/Certificates/Slice0/Obligations.lean ====
section
/-! DEFINITION. The statements for the provers, listed in OBLIGATIONS.json. "The session" is `Config.session`, the
parameters of the machine (log 1); a statement over `k : Config` holds for every admissible choice of the parameters. -/

open Sys2Proof Sys2Proof.Machine

/-! ## Encoding -/

/-- Every instruction the encoding admits, with every operand, is read back from its own words (R80, R81, R85, R95). -/
def Obligations.DecodeReadsBackEveryEncoding : Prop :=
  ∀ (k : Config) (i : Instr), i.encodable = true → decode k (encode k i) = .ok i

/-- Bytes that decode to an instruction are its op select, or a frame that agrees with the instruction's own frame in the
command byte, the length byte and the data (R81, R85, R95). -/
def Obligations.DecodedBytesCarryTheInstruction : Prop :=
  ∀ (k : Config) (bytes : List Byte) (i : Instr), decode k bytes = .ok i →
    i.encodable = true ∧ (bytes.length = 1 → bytes = encode k i) ∧
      (bytes.length ≠ 1 → (encode k i).length ≤ bytes.length ∧ 7 ≤ (encode k i).length ∧
        ((encode k i).drop 2).take ((encode k i).length - 5) <+: bytes.drop 2)

/-- Words written out from the op select table (R95) and from a frame's fields at their offsets (R80, R85) decode to the
instruction they stand for. That a 32-bit table word is a frame's header, byte 0 leftmost, followed by zeros is the model's
choice (log 3), and so is that decoding looks at no marker and no checksum, so that any may stand there (log 4). -/
def Obligations.WrittenOutWordsDecode : Prop :=
  decodeTableWord 8 0 = some .execute ∧ decodeTableWord 8 1 = some .encode ∧
  decodeTableWord 8 2 = some .decode ∧ decodeTableWord 8 3 = some .iscomplete ∧
  decodeTableWord 32 0xA5011000 = some (.getModelName none) ∧
  decodeTableWord 32 0xA5011001 = some (.getModelName (some 0)) ∧
  ∀ (k : Config) (s v x c0 c1 e : Byte),
    decode k [s, v, 0x10, 0x00, c0, c1, e] = .ok (.getModelName none) ∧
    decode k [s, v, 0x10, 0x01, x, c0, c1, e] = .ok (.getModelName (some x)) ∧
    decode k [s, v, k.cmdGetRuntime, 0x00, c0, c1, e] = .ok (.getRuntime none) ∧
    decode k [s, v, k.cmdSlaveError, 0x01, x, c0, c1, e] = .ok (.slaveError [x])

/-- What is no instruction is rejected, each kind under its own name, and refused by the step: nothing at all, an op select
wider than two bits (R95), fewer bytes than the frame has (R80), a length byte over 251 (R13), a command byte outside R85's
table, a query with two data bytes or more (R190). That presented words are checked at all is the model's choice (log 4): the
block itself carries any command byte and checks none (R86, R235). -/
def Obligations.OtherWordsAreRefused : Prop :=
  (∀ k : Config, decode k [] = .reject .nothing) ∧
  (∀ (k : Config) (b : Byte), 4 ≤ b.toNat → decode k [b] = .reject .opSelectTooWide) ∧
  (∀ (k : Config) (bytes : List Byte), bytes.length = 2 ∨ bytes.length = 3 → decode k bytes = .reject .truncatedFrame) ∧
  (∀ (k : Config) (s v c len : Byte) (rest : List Byte), len.toNat ≤ 251 → rest.length < len.toNat + 3 →
    decode k (s :: v :: c :: len :: rest) = .reject .truncatedFrame) ∧
  (∀ (k : Config) (s v c len : Byte) (rest : List Byte), 251 < len.toNat →
    decode k (s :: v :: c :: len :: rest) = .reject .lengthExceedsMaxData) ∧
  (∀ (k : Config) (s v c len : Byte) (rest : List Byte), len.toNat ≤ 251 → len.toNat + 3 ≤ rest.length →
    (∀ q, c ≠ k.commandOf q) → c ≠ k.cmdSlaveError → decode k (s :: v :: c :: len :: rest) = .reject .unknownCommand) ∧
  (∀ (k : Config) (s v len : Byte) (rest : List Byte) (q : Query), 2 ≤ len.toNat → len.toNat ≤ 251 →
    len.toNat + 3 ≤ rest.length → decode k (s :: v :: k.commandOf q :: len :: rest) = .reject .notARequest) ∧
  (∀ (s : State) (bytes : List Byte) (rest : List Move) (r : Reject), s.inputs = .issue bytes :: rest →
    decode Config.session bytes = .reject r → step s = .refused (.notAnInstruction r))

/-- A step runs the decoded instruction: the words are taken off the schedule and `exec` is applied; `withFetchWord`
presents a table word that way. The block fetches no program (R8); that an instruction is words presented by a move of a
schedule, and that `withFetchWord` makes a table word the next move, is the model's choice (log 2), and so are the bytes a
table word stands for (log 3). -/
def Obligations.StepRunsTheDecodedInstruction : Prop :=
  (∀ (s : State) (bytes : List Byte) (rest : List Move) (i : Instr), s.inputs = .issue bytes :: rest →
    decode Config.session bytes = .ok i → step s = exec i { s with inputs := rest }) ∧
  (∀ (s : State) (nbits w : Nat) (i : Instr), decodeTableWord nbits w = some i →
    step (s.withFetchWord nbits w) = exec i s)

/-- With an empty schedule an idle block does nothing, and a busy one takes an FSM step under some answer and some pick of
the environment (R26, R173; the model's choice, log 2). -/
def Obligations.EmptyScheduleLeavesTheFsmAlone : Prop :=
  ∀ s : State, s.inputs = [] →
    (s.tstate = .idle → step s = .next s) ∧
    (s.tstate ≠ .idle → ∃ ok pick, step s = step { s with inputs := [.fsm ok pick], draws := s.draws + 1 })

/-! ## Reset and the invariant -/

/-- Reset, both as the initial state and as the input asserted in any state: R45's values, nothing asked of what R45
leaves unspecified; the clock and the transport's state untouched, no `abortReceive` (R45, R260, R261). What the reset input
does to the client is `ResetAbandonsTheWaitingCall`. -/
def Obligations.ResetGivesTheStatedValues : Prop :=
  (∀ s : State, (s = State.reset ∨ ∃ s0 rest, s0.inputs = Move.reset :: rest ∧ step s0 = .next s) →
    s.tstate = .idle ∧ s.done = false ∧ s.rxArmed = false ∧ s.complete = false ∧ s.err = .noError ∧ s.err.code = 0 ∧
    s.rspCmd = 0 ∧ s.rspLen = 0 ∧ (∀ i, Memory.read s.rspData i = 0) ∧ s.txCount = 0) ∧
  (∀ (s0 : State) (rest : List Move), s0.inputs = .reset :: rest → ∃ s, step s0 = .next s ∧ s.inputs = rest ∧
    s.now = s0.now ∧ s.rxWr = s0.rxWr ∧ s.waitFail = s0.waitFail ∧ s.trace = s0.trace ∧
    s.outbound = s0.outbound ∧ s.inbound = s0.inbound)

/-- The reset input and the client layer, which stands outside the block (R4): the waiting call is abandoned and returns
nothing, the cached format counts as not fetched (R45 leaves `DATA_FORMAT` unspecified until the next successful query), the
last measurement and the host port's data stay. All of it is the model's choice (log 13). -/
def Obligations.ResetAbandonsTheWaitingCall : Prop :=
  ∀ (s : State) (rest : List Move), s.inputs = .reset :: rest → ∃ t, step s = .next t ∧ t.query = none ∧
    t.result = s.result ∧ t.dataFormatFetched = false ∧ t.sensorData = s.sensorData ∧ t.hostReadData = s.hostReadData

/-- The invariant holds at reset. -/
def Obligations.InvariantHoldsAtReset : Prop := Inv Config.session State.reset

/-- Every step keeps the invariant. -/
def Obligations.EveryStepKeepsTheInvariant : Prop :=
  ∀ s s' : State, Inv Config.session s → step s = .next s' → Inv Config.session s'

/-! ## The codec operations -/

/-- ENCODE of an admitted request in an idle block completes: every byte of the frame stands in `TXBUF` as R110 lists it,
`TX_COUNT` is `7 + n`, nothing at or above it is written, and nothing else changes but `OPSEL`, `ERR`, `DONE` (R110,
R130). -/
def Obligations.EncodeWritesTheFrame : Prop :=
  ∀ s : State, s.tstate = .idle → s.reqLen.toNat ≤ 251 → Memory.wf txDepth s.txbuf = true →
    ∃ t, exec .encode s = .next t ∧
      t = { s with opsel := .encode, txbuf := t.txbuf, txCount := t.txCount, err := .noError, done := true } ∧
      t.txCount.toNat = 7 + s.reqLen.toNat ∧
      Memory.read t.txbuf 0 = Config.session.sop ∧ Memory.read t.txbuf 1 = Config.session.ver ∧
      Memory.read t.txbuf 2 = s.reqCmd ∧ Memory.read t.txbuf 3 = s.reqLen ∧
      (∀ i, i < s.reqLen.toNat → Memory.read t.txbuf (4 + i) = Memory.read s.reqData i) ∧
      Memory.read t.txbuf (4 + s.reqLen.toNat) =
        lo8 (Config.session.ck (Memory.readBytes t.txbuf 0 (4 + s.reqLen.toNat))) ∧
      Memory.read t.txbuf (5 + s.reqLen.toNat) =
        hi8 (Config.session.ck (Memory.readBytes t.txbuf 0 (4 + s.reqLen.toNat))) ∧
      Memory.read t.txbuf (6 + s.reqLen.toNat) = Config.session.eop ∧
      (∀ a, 7 + s.reqLen.toNat ≤ a → Memory.read t.txbuf a = Memory.read s.txbuf a)

/-- A request longer than 251 bytes is rejected before anything is encoded, armed or sent: ENCODE changes `OPSEL`, `ERR` and
`DONE` only (R111; that `RSP_*` stay is R130); EXECUTE takes the failure exit, which also zeroes `RSP_*` (R151). R151 and U4
would let a model refuse such a launch and state no claim of it; that it runs is the model's choice (log 10). -/
def Obligations.OversizeRequestIsRejected : Prop :=
  ∀ s : State, s.tstate = .idle → 251 < s.reqLen.toNat →
    exec .encode s = .next { s with opsel := .encode, err := .requestRejected, done := true } ∧
    exec .execute s = .next
      { s with opsel := .execute, err := .requestRejected, done := true, rspCmd := 0, rspLen := 0, rspData := [] }

/-- DECODE in an idle block completes; the first failing check in the fixed order decides and zeroes the outputs; a frame
that passes with `L ≤ 251` gives its packet and `SlaveReportedError` exactly for the slave-error command; longer ones report
no framing error; nothing outside `RSP_*`, `ERR`, `DONE`, `OPSEL` and the model's draw counter changes (R115, R116, R118 to
R122, R130). That bytes of `RSP_DATA` at and above `L` keep their content follows R120 and R22 where U9 would leave them free
(log 9); the outcome of the guard path, `L` over 251, is free values (U3, log 8). -/
def Obligations.DecodeFirstFailingCheckDecides : Prop :=
  ∀ s : State, s.tstate = .idle → Memory.wf maxData s.rspData = true →
    let b := s.rxbuf
    let len := (Memory.read b 3).toNat
    let startBad := Memory.read b 0 ≠ Config.session.sop ∨ Memory.read b 1 ≠ Config.session.ver
    let endBad := Memory.read b (6 + len) ≠ Config.session.eop
    let sumBad := le16 (Memory.read b (4 + len)) (Memory.read b (5 + len)) ≠
      Config.session.ck (Memory.readBytes b 0 (4 + len))
    ∃ t, exec .decode s = .next t ∧
      t =
        { s with
          opsel := .decode, done := true, rspCmd := t.rspCmd, rspLen := t.rspLen, rspData := t.rspData, err := t.err,
          draws := t.draws } ∧
      (startBad → t.err = .invalidStartMarker) ∧
      (¬startBad → endBad → t.err = .invalidEndMarker) ∧
      (¬startBad → ¬endBad → sumBad → t.err = .invalidChecksum) ∧
      (startBad ∨ endBad ∨ sumBad → t.rspCmd = 0 ∧ t.rspLen = 0 ∧ ∀ i, Memory.read t.rspData i = 0) ∧
      (¬startBad → ¬endBad → ¬sumBad → len ≤ 251 →
        t.rspLen = Memory.read b 3 ∧ t.rspCmd = Memory.read b 2 ∧
        (∀ i, i < len → Memory.read t.rspData i = Memory.read b (4 + i)) ∧
        (∀ i, len ≤ i → Memory.read t.rspData i = Memory.read s.rspData i) ∧
        t.err = (if Memory.read b 2 = Config.session.cmdSlaveError then .slaveReportedError else .noError)) ∧
      (¬startBad → ¬endBad → ¬sumBad → 251 < len → t.err = .noError ∨ t.err = .slaveReportedError)

/-- The round trip: DECODE of the frame of any packet of 0 to 251 data bytes gives the packet back, with `NoError`, or
`SlaveReportedError` when its command is the slave-error code (R123). -/
def Obligations.DecodeOfEncodeGivesThePacket : Prop :=
  ∀ (s : State) (command : Byte) (data : List Byte), s.tstate = .idle → Memory.wf maxData s.rspData = true →
    data.length ≤ 251 → s.rxbuf = Memory.writeBytes [] 0 (encodeFrame Config.session command data) →
    ∃ t, exec .decode s = .next t ∧ t.rspCmd = command ∧ t.rspLen.toNat = data.length ∧
      Memory.readBytes t.rspData 0 data.length = data ∧
      t.err = (if command = Config.session.cmdSlaveError then .slaveReportedError else .noError)

/-- One changed byte of an encoded frame: start marker or version give `InvalidStartMarker`, the end marker
`InvalidEndMarker`, a checksum byte `InvalidChecksum`, and under the named property of the checksum (R143) a command or
data byte `InvalidChecksum`; the outputs are zero (R124). -/
def Obligations.OneChangedByteIsReported : Prop :=
  ∀ (k : Config) (s : State) (command : Byte) (data : List Byte) (j : Nat) (v : Byte), data.length ≤ 251 →
    j < 7 + data.length → (encodeFrame k command data)[j]? ≠ some v →
    s.rxbuf = Memory.writeBytes [] 0 ((encodeFrame k command data).set j v) →
    (j = 0 ∨ j = 1 → (s.decodeResponse k).err = .invalidStartMarker) ∧
    (j = 6 + data.length → (s.decodeResponse k).err = .invalidEndMarker) ∧
    (j = 4 + data.length ∨ j = 5 + data.length → (s.decodeResponse k).err = .invalidChecksum) ∧
    (k.SingleByteSensitive → j = 2 ∨ (4 ≤ j ∧ j < 4 + data.length) → (s.decodeResponse k).err = .invalidChecksum) ∧
    (j ≠ 3 → (s.decodeResponse k).err ≠ .noError → (s.decodeResponse k).err ≠ .slaveReportedError →
      (s.decodeResponse k).rspCmd = 0 ∧ (s.decodeResponse k).rspLen = 0 ∧ (s.decodeResponse k).rspData = [])

/-- The codes `InvalidVersion` and `UnknownCommand` are never produced: a step that leaves one in `ERR` found it there
(R117, R235). -/
def Obligations.ReservedCodesAreNeverProduced : Prop :=
  ∀ s s' : State, step s = .next s' →
    (s'.err = .invalidVersion → s.err = .invalidVersion) ∧ (s'.err = .unknownCommand → s.err = .unknownCommand)

/-- ISCOMPLETE in an idle block completes: `COMPLETE` says whether the length byte and the byte at offset `L + 6` are both
non-zero; nothing else changes but `OPSEL`, `ERR`, `DONE` (R125, R130). -/
def Obligations.IscompleteLooksAtTwoBytes : Prop :=
  ∀ s : State, s.tstate = .idle →
    exec .iscomplete s = .next { s with
      opsel := .iscomplete
      complete := decide (Memory.read s.rxbuf 3 ≠ 0 ∧ Memory.read s.rxbuf ((Memory.read s.rxbuf 3).toNat + 6) ≠ 0)
      err := .noError
      done := true }

/-- While the path is armed, completion implies that at least `L + 7` bytes were deposited since arming (R126(e)). -/
def Obligations.CompletionMeansTheBytesArrived : Prop :=
  ∀ s : State, Inv Config.session s → s.rxArmed = true → iscomplete s.rxbuf = true →
    (Memory.read s.rxbuf 3).toNat + 7 ≤ s.rxWr

/-- A frame without data is never reported complete; a frame with data is, and no proper prefix of it is (R126(b), R274,
V-C5; it needs `EOP ≠ 0`, R7). -/
def Obligations.OnlyWholeFramesWithDataComplete : Prop :=
  ∀ (k : Config) (command : Byte) (data : List Byte), data.length ≤ 251 →
    (iscomplete (Memory.writeBytes [] 0 (encodeFrame k command data)) = true ↔ data ≠ []) ∧
    ∀ n, n < 7 + data.length → iscomplete (Memory.writeBytes [] 0 ((encodeFrame k command data).take n)) = false

/-! ## EXECUTE and the FSM -/

/-- EXECUTE of an admitted request in an idle block completes its START step: `TSTATE` is ARM, `OPSEL` latched, `DONE`
cleared, nothing else changed (R41, R151). -/
def Obligations.ExecuteStartsTheTransaction : Prop :=
  ∀ s : State, s.tstate = .idle → s.reqLen.toNat ≤ 251 →
    exec .execute s = .next { s with opsel := .execute, done := false, tstate := .arm }

/-- A START while busy changes nothing in the block, for the unit operations and for the queries, whose writes and START are
ignored (R40, R41); that such a query leaves the client unchanged too is the model's reading, R190 says nothing of it (log
15). An accepted START latches the op select, and a codec operation ends with `DONE` set (R41, R130). -/
def Obligations.StartWhileBusyIsIgnored : Prop :=
  (∀ (i : Instr) (s : State), (∀ data, i ≠ .slaveError data) → s.tstate ≠ .idle → exec i s = .next s) ∧
  (∀ (i : Instr) (op : UnitOp) (s : State),
    (i, op) ∈ [(Instr.execute, UnitOp.execute), (.encode, .encode), (.decode, .decode), (.iscomplete, .iscomplete)] →
    s.tstate = .idle → ∃ t, exec i s = .next t ∧ t.opsel = op ∧ (t.done = false ↔ op = .execute ∧ s.reqLen.toNat ≤ 251))

/-- Step ARM: `RXBUF` is cleared, `startReceive` called once; on success the path is armed from offset 0 and SEND follows;
on failure the failure exit with `ArmFailure`, nothing sent, nothing aborted, `TXBUF` untouched (R152, R153). -/
def Obligations.ArmStepClearsAndArms : Prop :=
  ∀ (s : State) (ok : Bool) (pick : WaitExit) (rest : List Move), s.inputs = .fsm ok pick :: rest → s.tstate = .arm →
    ∃ t, step s = .next t ∧ (∀ a, Memory.read t.rxbuf a = 0) ∧ t.trace = s.trace ++ [.arm ok] ∧
      (ok = true → t =
        { s with
          inputs := rest, rxbuf := t.rxbuf, trace := t.trace, rxArmed := true, rxWr := 0, tstate := .send }) ∧
      (ok = false → t.tstate = .idle ∧ t.err = .armFailure ∧ t.done = true ∧ t.rspCmd = 0 ∧ t.rspLen = 0 ∧
        (∀ i, Memory.read t.rspData i = 0) ∧ t.rxArmed = s.rxArmed ∧ t.rxWr = s.rxWr ∧ t.txbuf = s.txbuf ∧
        t.txCount = s.txCount ∧ t.reqCmd = s.reqCmd ∧ t.reqLen = s.reqLen ∧ t.reqData = s.reqData ∧ t.t0 = s.t0 ∧
        t.outbound = s.outbound ∧ t.complete = s.complete ∧ t.opsel = s.opsel ∧ t.now = s.now)

/-- Step SEND: ENCODE, then one `transmit` of exactly the `TX_COUNT` bytes; on success the window opens at `NOW` and WAIT
follows; on failure one `abortReceive` and the failure exit with `TransmitFailure` (R154, R155). R161 leaves open what of a
failed transmission reached the wire; that it is some first part of the frame is the model's choice (log 12). -/
def Obligations.SendStepTransmitsTheFrame : Prop :=
  ∀ (s : State) (ok : Bool) (pick : WaitExit) (rest : List Move), s.inputs = .fsm ok pick :: rest → s.tstate = .send →
    Inv Config.session s →
    let frame := encodeFrame Config.session s.reqCmd (Memory.readBytes s.reqData 0 s.reqLen.toNat)
    ∃ t, step s = .next t ∧ t.txCount.toNat = 7 + s.reqLen.toNat ∧
      Memory.readBytes t.txbuf 0 t.txCount.toNat = frame ∧
      (∀ a, 7 + s.reqLen.toNat ≤ a → Memory.read t.txbuf a = Memory.read s.txbuf a) ∧
      (ok = true → t =
        { s with
          inputs := rest, txbuf := t.txbuf, txCount := t.txCount, t0 := s.now, tstate := .wait,
          trace := s.trace ++ [.tx frame t.txCount true], outbound := s.outbound ++ frame }) ∧
      (ok = false → t.tstate = .idle ∧ t.err = .transmitFailure ∧ t.done = true ∧ t.rxArmed = false ∧
        t.rspCmd = 0 ∧ t.rspLen = 0 ∧ (∀ i, Memory.read t.rspData i = 0) ∧
        t.trace = s.trace ++ [.tx frame t.txCount false, .abort] ∧ (∃ n, t.outbound = s.outbound ++ frame.take n) ∧
        t.t0 = s.t0 ∧ t.rxbuf = s.rxbuf ∧ t.reqCmd = s.reqCmd ∧ t.reqLen = s.reqLen ∧ t.reqData = s.reqData ∧
        t.complete = s.complete ∧ t.opsel = s.opsel ∧ t.now = s.now)

/-- Step WAIT: with no exit enabled nothing changes; any enabled exit may be the one taken, and one is; each exit aborts
once, and ends with DECODE's result on the stable buffer, `TransportTimeout`, or `WaitFailure` (R156 to R159). -/
def Obligations.WaitTakesAnyEnabledExit : Prop :=
  ∀ (s : State) (ok : Bool) (pick : WaitExit) (rest : List Move), s.inputs = .fsm ok pick :: rest → s.tstate = .wait →
    let enabled : WaitExit → Prop := fun e => match e with
      | .completion => Memory.read s.rxbuf 3 ≠ 0 ∧ Memory.read s.rxbuf ((Memory.read s.rxbuf 3).toNat + 6) ≠ 0
      | .timeout => Config.session.timeout ≤ s.now - s.t0
      | .waitFailure => s.waitFail = true
    ((∀ e, ¬enabled e) → step s = .next { s with inputs := rest }) ∧
    (∀ e, enabled e → ∃ e', enabled e' ∧ (enabled pick → e' = pick) ∧
      ∃ t, step s = .next t ∧ t.tstate = .idle ∧ t.done = true ∧ t.rxArmed = false ∧ t.trace = s.trace ++ [.abort] ∧
        t.inputs = rest ∧ t.rxbuf = s.rxbuf ∧ t.txbuf = s.txbuf ∧ t.txCount = s.txCount ∧ t.reqCmd = s.reqCmd ∧
        t.reqLen = s.reqLen ∧ t.reqData = s.reqData ∧ t.t0 = s.t0 ∧ t.now = s.now ∧ t.opsel = s.opsel ∧
        t.complete = s.complete ∧ t.outbound = s.outbound ∧ t.inbound = s.inbound ∧ t.rxWr = s.rxWr ∧
        t.waitFail = s.waitFail ∧
        (e' = .completion → ∃ d, exec .decode { s with tstate := .idle } = .next d ∧
          t.err = d.err ∧ t.rspCmd = d.rspCmd ∧ t.rspLen = d.rspLen ∧ t.rspData = d.rspData) ∧
        (e' = .timeout → t.err = .transportTimeout ∧ t.rspCmd = 0 ∧ t.rspLen = 0 ∧ ∀ i, Memory.read t.rspData i = 0) ∧
        (e' = .waitFailure → t.err = .waitFailure ∧ t.rspCmd = 0 ∧ t.rspLen = 0 ∧ ∀ i, Memory.read t.rspData i = 0))

/-- When completion is never observed before the timeout, any FSM step of WAIT ends the transaction with
`TransportTimeout` and exactly one abort; the partial bytes stay in `RXBUF` and are not decoded (R158). -/
def Obligations.TimeoutIsReportedWithOneAbort : Prop :=
  ∀ (s : State) (ok : Bool) (pick : WaitExit) (rest : List Move), s.inputs = .fsm ok pick :: rest → s.tstate = .wait →
    iscomplete s.rxbuf = false → s.waitFail = false → Config.session.timeout ≤ s.now - s.t0 →
    ∃ t, step s = .next t ∧ t.tstate = .idle ∧ t.done = true ∧ t.err = .transportTimeout ∧ t.rxArmed = false ∧
      t.trace = s.trace ++ [.abort] ∧ t.rxbuf = s.rxbuf ∧ t.rspCmd = 0 ∧ t.rspLen = 0 ∧
      ∀ i, Memory.read t.rspData i = 0

/-- The transitions of `TSTATE` are those of R170 and no others, whatever the move, reset apart. -/
def Obligations.NoOtherTransitionOfTstate : Prop :=
  ∀ s s' : State, step s = .next s' → s.resetNotNext →
    s'.tstate = s.tstate ∨
    (s.tstate, s'.tstate) ∈ [(TState.idle, TState.arm), (.arm, .send), (.arm, .idle), (.send, .wait), (.send, .idle),
      (.wait, .idle)]

/-- A transaction's end: a step from a busy to an idle block sets `DONE`, leaves the path unarmed, and unless `ERR` is
`NoError` or `SlaveReportedError` the outputs are zero; a step that leaves the block busy does not touch them (R23, R240,
R241). -/
def Obligations.EndOfTransactionIsClean : Prop :=
  ∀ s s' : State, Inv Config.session s → step s = .next s' → s.resetNotNext → s.tstate ≠ .idle →
    (s'.tstate = .idle → s'.done = true ∧ s'.rxArmed = false ∧
      (s'.err ≠ .noError → s'.err ≠ .slaveReportedError → s'.rspCmd = 0 ∧ s'.rspLen = 0 ∧
        ∀ i, Memory.read s'.rspData i = 0)) ∧
    (s'.tstate ≠ .idle → s'.done = false ∧ s'.err = s.err ∧ s'.rspCmd = s.rspCmd ∧ s'.rspLen = s.rspLen ∧
      s'.rspData = s.rspData)

/-- Step by step, from every state of the invariant and whatever the move, reset apart: the `ABORT` events, plus one while the
path is armed, and the `TX` events, plus one while a transmission is due, both keep pace with the `ARM(ok)` events (R163,
R171, R172). -/
def Obligations.EveryStepKeepsTheEventBalance : Prop :=
  ∀ s s' : State, Inv Config.session s → step s = .next s' → s.resetNotNext →
    let armed : State → Nat := fun s => if s.rxArmed = true then 1 else 0
    let due : State → Nat := fun s => if s.tstate = .send then 1 else 0
    abortCount s'.trace + armed s' + armedCount s.trace = abortCount s.trace + armed s + armedCount s'.trace ∧
    transmitCount s'.trace + due s' + armedCount s.trace = transmitCount s.trace + due s + armedCount s'.trace

/-- Over any run between two idle states, however many transactions it holds and whatever the environment does, the
receive path is aborted exactly as often as it was armed and transmitted on exactly as often: abort exactly once, no
retries (R171, R172). -/
def Obligations.AbortExactlyOncePerArm : Prop :=
  ∀ s s' : State, Inv Config.session s → s.tstate = .idle → Run s s' → s'.tstate = .idle →
    s'.rxArmed = false ∧
    abortCount s'.trace + armedCount s.trace = abortCount s.trace + armedCount s'.trace ∧
    transmitCount s'.trace + armedCount s.trace = transmitCount s.trace + armedCount s'.trace

/-- The complete list of transport traces (R171): a rejected EXECUTE makes none (that it runs is log 10); a transaction that runs to its end made
`ARM(fail)`, or `ARM(ok), TX(fail), ABORT`, or `ARM(ok), TX(ok), ABORT`, as its `ERR` says, the one `TX` carrying the whole
frame of its request; and the path is left unarmed. -/
def Obligations.TracesOfATransaction : Prop :=
  (∀ s : State, Inv Config.session s → s.tstate = .idle → 251 < s.reqLen.toNat →
    ∃ t, exec .execute s = .next t ∧ t.tstate = .idle ∧ t.err = .requestRejected ∧ t.trace = s.trace ∧
      t.rxArmed = false) ∧
  (∀ s t : State, Inv Config.session s → Transaction s t → t.tstate = .idle →
    let frame := encodeFrame Config.session t.reqCmd (Memory.readBytes t.reqData 0 t.reqLen.toNat)
    t.rxArmed = false ∧ t.done = true ∧ t.err ≠ .requestRejected ∧
    (t.err = .armFailure → t.trace = s.trace ++ [.arm false]) ∧
    (t.err = .transmitFailure → t.trace = s.trace ++ [.arm true, .tx frame t.txCount false, .abort]) ∧
    (t.err ≠ .armFailure → t.err ≠ .transmitFailure →
      t.trace = s.trace ++ [.arm true, .tx frame t.txCount true, .abort]))

/-- What a run shows only grows, and the clock never goes back: the trace and the outbound stream are extended, `NOW` does
not decrease (R10, R32, R50). -/
def Obligations.HistoryOnlyGrows : Prop :=
  ∀ s s' : State, step s = .next s' → s.trace <+: s'.trace ∧ s.outbound <+: s'.outbound ∧ s.now ≤ s'.now

/-- Termination of WAIT: once the timeout condition holds it stays true until WAIT is left, and every FSM step then leaves
it (R173). -/
def Obligations.WaitIsBounded : Prop :=
  (∀ s s' : State, step s = .next s' → s.resetNotNext → s.tstate = .wait → s'.tstate = .wait →
    Config.session.timeout ≤ s.now - s.t0 → Config.session.timeout ≤ s'.now - s'.t0) ∧
  (∀ (s : State) (ok : Bool) (pick : WaitExit) (rest : List Move), s.inputs = .fsm ok pick :: rest ∨ s.inputs = [] →
    s.tstate = .wait → Config.session.timeout ≤ s.now - s.t0 → ∃ t, step s = .next t ∧ t.tstate = .idle)

/-- While the block is busy nothing but the FSM's own steps and the transport's deposits touches its operands and buffers
(R31, R33, R40, R64, R67). `REQ_*` and `OPSEL` never change and `TXBUF` only in step SEND. In SEND and WAIT, `RXBUF` changes
only where the move is a deposit or the sensor's report (whose reception is one step: log 19), and never below `RX_WR`; in
ARM, under the invariant, only the FSM step's clear changes it. -/
def Obligations.OperandsAreStableWhileBusy : Prop :=
  ∀ s s' : State, step s = .next s' → s.resetNotNext → s.tstate ≠ .idle →
    s'.reqCmd = s.reqCmd ∧ s'.reqLen = s.reqLen ∧ s'.reqData = s.reqData ∧ s'.opsel = s.opsel ∧
    (s.tstate ≠ .send → s'.txbuf = s.txbuf ∧ s'.txCount = s.txCount) ∧
    (s.tstate = .send ∨ s.tstate = .wait → s.inputs.head? ≠ some .deposit →
      (∀ bytes data, s.inputs.head? = some (.issue bytes) → decode Config.session bytes ≠ .ok (.slaveError data)) →
      s'.rxbuf = s.rxbuf) ∧
    (Inv Config.session s → s.tstate = .send ∨ s.tstate = .wait →
      ∀ a, a < s.rxWr → Memory.read s'.rxbuf a = Memory.read s.rxbuf a) ∧
    (Inv Config.session s → s.tstate = .arm → s.inputs ≠ [] → (∀ ok pick, s.inputs.head? ≠ some (.fsm ok pick)) →
      s'.rxbuf = s.rxbuf)

/-! ## The ports -/

/-- The deposit step: while armed the byte lands at `RX_WR` if that is inside the buffer, every other byte is as before,
and the position advances; while not armed only the inbound stream moves on (R33). -/
def Obligations.DepositLandsAtThePosition : Prop :=
  ∀ (s : State) (v : Byte) (q : List Byte) (rest : List Move), s.inputs = .deposit :: rest → s.inbound = v :: q →
    Memory.wf rxDepth s.rxbuf = true →
    (s.rxArmed = true → ∃ t, step s = .next t ∧
      t = { s with inputs := rest, inbound := q, rxbuf := t.rxbuf, rxWr := s.rxWr + 1 } ∧
      ∀ a, Memory.read t.rxbuf a = if a = s.rxWr ∧ s.rxWr < 262 then v else Memory.read s.rxbuf a) ∧
    (s.rxArmed = false → step s = .next { s with inputs := rest, inbound := q })

/-- The host's writes: ignored while busy; while idle exactly the named byte or register changes (R21, R40, R59; an offset
the array does not have stops, log 14). -/
def Obligations.HostWritesOnlyWhileIdle : Prop :=
  ∀ (s : State) (target : WriteTarget) (v : Byte) (rest : List Move), s.inputs = .write target v :: rest →
    (s.tstate ≠ .idle → step s = .next { s with inputs := rest }) ∧
    (s.tstate = .idle → Inv Config.session s →
      (target = .reqCmd → step s = .next { s with inputs := rest, reqCmd := v }) ∧
      (target = .reqLen → step s = .next { s with inputs := rest, reqLen := v }) ∧
      (∀ i, target = .reqData i → i < 251 → ∃ t, step s = .next t ∧ t = { s with inputs := rest, reqData := t.reqData } ∧
        ∀ a, Memory.read t.reqData a = if a = i then v else Memory.read s.reqData a) ∧
      (∀ i, target = .txbuf i → i < 258 → ∃ t, step s = .next t ∧ t = { s with inputs := rest, txbuf := t.txbuf } ∧
        ∀ a, Memory.read t.txbuf a = if a = i then v else Memory.read s.txbuf a) ∧
      (∀ i, target = .rxbuf i → i < 262 → ∃ t, step s = .next t ∧ t = { s with inputs := rest, rxbuf := t.rxbuf } ∧
        ∀ a, Memory.read t.rxbuf a = if a = i then v else Memory.read s.rxbuf a))

/-- The host's reads have no side effect on the machine: only the port's data and the model's draw counter change; result
registers read at any time, the buffers while idle (R22, R40, R55). -/
def Obligations.HostReadsHaveNoSideEffect : Prop :=
  ∀ (s : State) (target : ReadTarget) (rest : List Move), s.inputs = .read target :: rest →
    (∀ t, step s = .next t → t = { s with inputs := rest, hostReadData := t.hostReadData, draws := t.draws }) ∧
    (target = .rspCmd → ∃ t, step s = .next t ∧ t.hostReadData.toNat = s.rspCmd.toNat) ∧
    (target = .rspLen → ∃ t, step s = .next t ∧ t.hostReadData.toNat = s.rspLen.toNat) ∧
    (target = .txCount → ∃ t, step s = .next t ∧ t.hostReadData = s.txCount) ∧
    (∀ i, target = .rspData i → i < 251 →
      ∃ t, step s = .next t ∧ t.hostReadData.toNat = (Memory.read s.rspData i).toNat) ∧
    (∀ i, target = .txbuf i → i < 258 → s.tstate = .idle →
      ∃ t, step s = .next t ∧ t.hostReadData.toNat = (Memory.read s.txbuf i).toNat) ∧
    (∀ i, target = .rxbuf i → i < 262 → s.tstate = .idle →
      ∃ t, step s = .next t ∧ t.hostReadData.toNat = (Memory.read s.rxbuf i).toNat) ∧
    (∀ i, target = .txbuf i ∨ target = .rxbuf i → s.tstate ≠ .idle → ∃ t, step s = .next t)

/-- The machine faults exactly on a host access to an offset the array does not have, in a state in which the access is
honoured: a write or a window read while idle, a read of `RSP_DATA` at any time (R40, R50). R50 gives such an offset no
meaning; that the machine stops there is the model's choice (log 14). -/
def Obligations.FaultsAreOffsetsThatDoNotExist : Prop :=
  ∀ (s : State) (f : Fault), step s = .fault f ↔
    ∃ (i : Nat) (v : Byte) (rest : List Move),
      (s.inputs = .write (.reqData i) v :: rest ∧ s.tstate = .idle ∧ 251 ≤ i ∧ f = .noSuchOffset .reqData i) ∨
      (s.inputs = .write (.txbuf i) v :: rest ∧ s.tstate = .idle ∧ 258 ≤ i ∧ f = .noSuchOffset .txbuf i) ∨
      (s.inputs = .write (.rxbuf i) v :: rest ∧ s.tstate = .idle ∧ 262 ≤ i ∧ f = .noSuchOffset .rxbuf i) ∨
      (s.inputs = .read (.rspData i) :: rest ∧ 251 ≤ i ∧ f = .noSuchOffset .rspData i) ∨
      (s.inputs = .read (.txbuf i) :: rest ∧ s.tstate = .idle ∧ 258 ≤ i ∧ f = .noSuchOffset .txbuf i) ∨
      (s.inputs = .read (.rxbuf i) :: rest ∧ s.tstate = .idle ∧ 262 ≤ i ∧ f = .noSuchOffset .rxbuf i)

/-- The clock, the transport's level and the sensor: `NOW` advances by the amount or to the instant, unless that is past
already (R32, R40), `t_wait_fail` takes the level (R40), the sensor's byte joins the end of the inbound stream (R50); nothing
else changes. That these are moves of a schedule is log 2, and that the clock moves in these two ways log 25. -/
def Obligations.ClockAndTransportInputs : Prop :=
  ∀ (s : State) (rest : List Move),
    (∀ n, s.inputs = .tick n :: rest → step s = .next { s with inputs := rest, now := s.now + n }) ∧
    (∀ t, s.inputs = .clockTo t :: rest →
      step s = .next { s with inputs := rest, now := if s.now ≤ t then t else s.now }) ∧
    (∀ level, s.inputs = .waitFail level :: rest → step s = .next { s with inputs := rest, waitFail := level }) ∧
    (∀ v, s.inputs = .slaveSend v :: rest → step s = .next { s with inputs := rest, inbound := s.inbound ++ [v] })

/-! ## The client layer -/

/-- Each of the ten queries (`q.instr index` is GET_MODEL_NAME to GET_SENSOR_NAME as `q` varies) in an idle block
completes its launch: `REQ_CMD` is the query's code, the request has the index byte exactly when `HAS_INDEX(q)`, and
EXECUTE is started; nothing else changes but the client's own record of the call (R190, R85; log 16). -/
def Obligations.QueryLaunchBuildsTheRequest : Prop :=
  ∀ (q : Query) (index : Option Byte) (s : State), s.tstate = .idle → Memory.wf maxData s.reqData = true →
    ∃ t, exec (q.instr index) s = .next t ∧
      t =
        { s with
          reqCmd := Config.session.commandOf q, reqLen := t.reqLen, reqData := t.reqData, opsel := .execute,
          done := false, tstate := .arm, query := some q, result := none, sensorData := none } ∧
      (Config.session.hasIndex q = true → t.reqLen = 1 ∧ Memory.read t.reqData 0 = index.getD 0x00) ∧
      (Config.session.hasIndex q = false → t.reqLen = 0 ∧ Memory.read t.reqData 0 = Memory.read s.reqData 0) ∧
      (∀ a, 1 ≤ a → Memory.read t.reqData a = Memory.read s.reqData a)

/-- A query returns in the step that ends its transaction, not before: on any error its fallback and the code, on success
the converted payload after the optional index byte (R190, R204; the step is log 16). -/
def Obligations.QueryReturnsWhenItsTransactionEnds : Prop :=
  ∀ (s : State) (ok : Bool) (pick : WaitExit) (rest : List Move) (q : Query), s.inputs = .fsm ok pick :: rest →
    s.tstate ≠ .idle → s.query = some q →
    ∃ t, step s = .next t ∧
      (t.tstate ≠ .idle → t.query = some q ∧ t.result = s.result) ∧
      (t.tstate = .idle → t.query = none ∧ ∃ r, t.result = some r ∧ r.query = q ∧ r.status = t.err ∧
        (t.err ≠ .noError → r.value = fallback q) ∧
        (t.err = .noError → t.rspLen.toNat ≤ 251 →
          let j := if Config.session.hasIndex q = true then 1 else 0
          ∀ v, convert q (Memory.readBytes t.rspData j (t.rspLen.toNat - j)) = some v → r.value = v))

/-- The four string queries copy the payload and append one terminator; the production date is the raw payload; the
fallbacks are the empty string, the empty sequence, zeros, and status and error 0xFF (R191 to R193, R196, R200, R203,
R204). -/
def Obligations.StringsRawBytesAndFallbacks : Prop :=
  (∀ (q : Query) (p : List Byte), q ∈ [Query.modelName, .productName, .firmwareVersion, .sensorName] →
    convert q p = some (.string (p ++ [0x00])) ∧ fallback q = .string [0x00]) ∧
  (∀ p : List Byte, convert .productionDate p = some (.productionDate p)) ∧
  fallback .productionDate = .productionDate [] ∧ fallback .serialNumber = .serialNumber 0 ∧
  fallback .runtime = .runtime 0 ∧ fallback .sensorTemperature = .temperature 0 ∧
  fallback .sensorDataFormat = .dataFormat ⟨0, 0, 0, 0⟩ ∧ fallback .sensorData = .measurement ⟨0xFF, 0xFF, 0⟩

/-- The serial number is the decimal value of the payload's digit characters, in order, modulo 2^32; other bytes are
skipped; the fallback is 0 (R194). -/
def Obligations.SerialNumberIsTheDigitsValue : Prop :=
  fallback .serialNumber = .serialNumber 0 ∧
  ∀ p : List Byte, ∃ n : Word, convert .serialNumber p = some (.serialNumber n) ∧
    n.toNat = ((p.filter (fun b => decide (0x30 ≤ b.toNat ∧ b.toNat ≤ 0x39))).foldl
      (fun m b => m * 10 + (b.toNat - 0x30)) 0) % 2 ^ 32

/-- The measurement: status, error, and the raw value divided by 100 rounded half away from zero, exact in 32 bits
(R197); the fallback is status and error 0xFF and value 0. -/
def Obligations.MeasurementRoundsHalfAwayFromZero : Prop :=
  fallback .sensorData = .measurement ⟨0xFF, 0xFF, 0⟩ ∧
  ∀ (status error b0 b1 b2 b3 : Byte) (rest : List Byte), ∃ d,
    convert .sensorData (status :: error :: b0 :: b1 :: b2 :: b3 :: rest) = some (.measurement d) ∧
    d.status = status ∧ d.error = error ∧
    let raw := le32s b0 b1 b2 b3
    let value := d.value.toInt
    raw < 2 ^ 31 ∧ -(2 ^ 31) ≤ raw ∧ (raw - (b0.toNat + 2 ^ 8 * b1.toNat + 2 ^ 16 * b2.toNat + 2 ^ 24 * b3.toNat)) % 2 ^ 32 = 0 ∧
    (0 ≤ raw → -50 ≤ raw - 100 * value ∧ raw - 100 * value < 50) ∧
    (raw < 0 → -50 < raw - 100 * value ∧ raw - 100 * value ≤ 50)

/-- Run time is the unsigned little-endian value of four bytes, temperature the two's complement one in hundredths, the data
format the four bytes in order; bytes beyond the fourth are ignored; a shorter payload has no stated result (R195, R198,
R199, R206). -/
def Obligations.FourByteConversions : Prop :=
  (∀ (b0 b1 b2 b3 : Byte) (rest : List Byte),
    (∃ n : Word, convert .runtime (b0 :: b1 :: b2 :: b3 :: rest) = some (.runtime n) ∧
      n.toNat = b0.toNat + 2 ^ 8 * b1.toNat + 2 ^ 16 * b2.toNat + 2 ^ 24 * b3.toNat) ∧
    (∃ h : Int, convert .sensorTemperature (b0 :: b1 :: b2 :: b3 :: rest) = some (.temperature h) ∧
      -(2 ^ 31) ≤ h ∧ h < 2 ^ 31 ∧ (h - (b0.toNat + 2 ^ 8 * b1.toNat + 2 ^ 16 * b2.toNat + 2 ^ 24 * b3.toNat)) % 2 ^ 32 = 0) ∧
    convert .sensorDataFormat (b0 :: b1 :: b2 :: b3 :: rest) = some (.dataFormat ⟨b0, b1, b2, b3⟩)) ∧
  (∀ (q : Query) (p : List Byte), convert q p = none ↔
    (q ∈ [Query.runtime, .sensorTemperature, .sensorDataFormat] ∧ p.length < 4) ∨ (q = .sensorData ∧ p.length < 6))

/-- `DATA_FORMAT` changes only when a data-format query ends, and once it was fetched it stays, reset apart. Until then, a
data-format query that ends leaves its result there: the payload's first four bytes on success, which marks it fetched, and
the fallback `{0, 0, 0, 0}` on an error, which does not (R199, R204, R207; the caching policy is the model's choice, log 18,
and that the query ends in a step of its own log 16). -/
def Obligations.DataFormatIsFetchedOnce : Prop :=
  ∀ s s' : State, step s = .next s' → s.resetNotNext →
    (s.dataFormatFetched = true → s'.dataFormatFetched = true ∧ s'.dataFormat = s.dataFormat) ∧
    (s'.dataFormat ≠ s.dataFormat → s.query = some .sensorDataFormat ∧ s'.query = none) ∧
    (s.query = some .sensorDataFormat → s'.query = none → s.dataFormatFetched = false →
      (∃ r, s'.result = some r ∧ r.value = .dataFormat s'.dataFormat) ∧
      (s'.dataFormatFetched = true ↔ s'.err = .noError) ∧
      (s'.err ≠ .noError → s'.dataFormat = ⟨0, 0, 0, 0⟩) ∧
      (s'.err = .noError → s'.rspLen.toNat ≤ 251 →
        let j := if Config.session.hasIndex .sensorDataFormat = true then 1 else 0
        ∀ b0 b1 b2 b3 more, Memory.readBytes s'.rspData j (s'.rspLen.toNat - j) = b0 :: b1 :: b2 :: b3 :: more →
          s'.dataFormat = ⟨b0, b1, b2, b3⟩))

/-- A measurement query that ends leaves the returned measurement in `SENSOR_DATA`: the conversion of the payload on success,
the fallback on an error (R35, R197, R204). No other step, reset included, changes it, but a query's launch, which clears it:
R35's 'no persistence across calls' as the model reads it (log 22). -/
def Obligations.SensorDataHoldsTheReturnedMeasurement : Prop :=
  ∀ s s' : State, step s = .next s' →
    (s.resetNotNext → s.query = some .sensorData → s'.query = none →
      ∃ d r, s'.sensorData = some d ∧ s'.result = some r ∧ r.value = .measurement d ∧
        (s'.err ≠ .noError → d = ⟨0xFF, 0xFF, 0⟩) ∧
        (s'.err = .noError → s'.rspLen.toNat ≤ 251 →
          let j := if Config.session.hasIndex .sensorData = true then 1 else 0
          ∀ status error b0 b1 b2 b3 more,
            Memory.readBytes s'.rspData j (s'.rspLen.toNat - j) = status :: error :: b0 :: b1 :: b2 :: b3 :: more →
            d.status = status ∧ d.error = error ∧ d.value.toInt = roundHundredths (le32s b0 b1 b2 b3))) ∧
    (s'.sensorData ≠ s.sensorData → (s.query = some .sensorData ∧ s'.query = none) ∨
      (s.tstate = .idle ∧ s'.tstate = .arm ∧ s'.query ≠ none ∧ s'.sensorData = none))

/-- The four status flags are independent bits, and the fallback status 0xFF reads as all four set (R205). -/
def Obligations.StatusFlagsAreIndependent : Prop :=
  ∀ k : Config,
    (∀ n w l c : Bool, ∃ d : SensorData, d.notReliable k = n ∧ d.warmup k = w ∧ d.lamp k = l ∧ d.calibration k = c) ∧
    (∀ d : SensorData, fallback .sensorData = .measurement d →
      d.notReliable k = true ∧ d.warmup k = true ∧ d.lamp k = true ∧ d.calibration k = true)

/-- SLAVE_ERROR completes in a waiting transaction that has received nothing yet: `RXBUF` holds the report's frame; a report
with 1 to 251 data bytes ends the transaction with `SlaveReportedError` and the packet intact, the query with its fallback,
that code, and the secondary code where the parameters determine one; a report without data does not end it; nothing else
changes but the client's fields and the model's draw counter (R201, R121, R126(b); one step for reception and poll is
log 19, the secondary code's reading log 20). -/
def Obligations.SlaveErrorReportEndsTheTransaction : Prop :=
  ∀ (s : State) (data : List Byte), s.tstate = .wait → s.rxArmed = true → s.rxWr = 0 → s.rxbuf = [] → s.inbound = [] →
    s.waitFail = false → s.now - s.t0 < Config.session.timeout → data.length ≤ 251 →
    Memory.wf maxData s.rspData = true →
    ∃ t, exec (.slaveError data) s = .next t ∧
      t =
        { s with
          inbound := [], rxbuf := t.rxbuf, rxWr := 7 + data.length, rspCmd := t.rspCmd, rspLen := t.rspLen,
          rspData := t.rspData, err := t.err, tstate := t.tstate, done := t.done, rxArmed := t.rxArmed, trace := t.trace,
          draws := t.draws, dataFormat := t.dataFormat, dataFormatFetched := t.dataFormatFetched,
          sensorData := t.sensorData, query := t.query, result := t.result, clientDraws := t.clientDraws } ∧
      (∀ a, Memory.read t.rxbuf a = ((encodeFrame Config.session Config.session.cmdSlaveError data)[a]?).getD 0) ∧
      (data = [] → t.tstate = .wait ∧ t.done = s.done ∧ t.rxArmed = true ∧ t.trace = s.trace ∧ t.err = s.err ∧
        t.rspCmd = s.rspCmd ∧ t.rspLen = s.rspLen ∧ t.rspData = s.rspData ∧ t.query = s.query ∧ t.result = s.result) ∧
      (data ≠ [] → t.tstate = .idle ∧ t.done = true ∧ t.rxArmed = false ∧ t.trace = s.trace ++ [.abort] ∧
        t.err = .slaveReportedError ∧ t.rspCmd = Config.session.cmdSlaveError ∧ t.rspLen.toNat = data.length ∧
        Memory.readBytes t.rspData 0 data.length = data ∧
        (∀ i, data.length ≤ i → Memory.read t.rspData i = Memory.read s.rspData i) ∧ t.query = none ∧
        (∀ q, s.query = some q → ∃ r, t.result = some r ∧ r.query = q ∧ r.value = fallback q ∧
          r.status = .slaveReportedError ∧
          (∀ c b, data[Config.session.slaveErrPos]? = some b →
            (∀ c', Config.session.slaveErr c' = b ↔ c' = c) → r.slaveCode = some c)))

/-- SLAVE_ERROR completes in every state: it consumes the inbound stream. While the path is not armed its bytes are lost;
while armed the position advances by every byte; before WAIT nothing is polled. The request registers, `OPSEL`, `TXBUF`,
`TX_COUNT`, `T0`, `COMPLETE`, the clock and the outbound stream never change (R33, R63, R201; log 19, log 24). That data of
more than 251 bytes, which no decoded instruction has, is sent as a frame of `7 + data.length` bytes is the model's choice
(R111 leaves its encoding undefined; log 30). -/
def Obligations.SlaveErrorCompletesInEveryState : Prop :=
  ∀ (s : State) (data : List Byte), ∃ t, exec (.slaveError data) s = .next t ∧ t.inbound = [] ∧
    t.reqCmd = s.reqCmd ∧ t.reqLen = s.reqLen ∧ t.reqData = s.reqData ∧ t.opsel = s.opsel ∧ t.txbuf = s.txbuf ∧
    t.txCount = s.txCount ∧ t.t0 = s.t0 ∧ t.complete = s.complete ∧ t.now = s.now ∧ t.waitFail = s.waitFail ∧
    t.outbound = s.outbound ∧ t.inputs = s.inputs ∧ t.hostReadData = s.hostReadData ∧
    (s.rxArmed = true → t.rxWr = s.rxWr + s.inbound.length + (7 + data.length)) ∧
    (s.tstate ≠ .wait → t = { s with inbound := [], rxbuf := t.rxbuf, rxWr := t.rxWr }) ∧
    (s.rxArmed = false → t.rxbuf = s.rxbuf ∧ t.rxWr = s.rxWr) ∧
    (s.tstate ≠ .wait → s.rxArmed = false → t = { s with inbound := [] })

/-- No rule of layer L1 reads layer L2's state: two states that differ only in the client's fields step alike, up to those
fields (R4). -/
def Obligations.BlockDoesNotReadTheClient : Prop :=
  ∀ s s' : State, s.forgetClient = s'.forgetClient → forgetClientOutcome (step s) = forgetClientOutcome (step s')

/-! ## A whole transaction -/

/-- A successful transaction from START to result, for every request, every response frame with 1 to 251 data bytes and
every idle state: START, ARM and SEND succeed, every byte of the response is deposited, the poll ends it. The request
frame is on the wire, the response packet in `RSP_*`, the trace is ARM(ok), TX(ok), ABORT (R150, R171). -/
def Obligations.SuccessfulTransactionDeliversTheResponse : Prop :=
  ∀ (s : State) (command : Byte) (data : List Byte) (p1 p2 : WaitExit) (ok : Bool), Inv Config.session s →
    s.tstate = .idle → s.reqLen.toNat ≤ 251 → data ≠ [] → data.length ≤ 251 →
    s.inbound = encodeFrame Config.session command data →
    s.inputs = [.issue [0], .fsm true p1, .fsm true p2] ++ List.replicate (7 + data.length) .deposit ++
      [.fsm ok .completion] →
    let frame := encodeFrame Config.session s.reqCmd (Memory.readBytes s.reqData 0 s.reqLen.toNat)
    ∃ t, Host.Core.run core (11 + data.length) s = .next t ∧ t.tstate = .idle ∧ t.done = true ∧ t.rxArmed = false ∧
      t.rspCmd = command ∧ t.rspLen.toNat = data.length ∧ Memory.readBytes t.rspData 0 data.length = data ∧
      t.err = (if command = Config.session.cmdSlaveError then .slaveReportedError else .noError) ∧
      t.outbound = s.outbound ++ frame ∧
      (∃ count : BitVec 9, count.toNat = 7 + s.reqLen.toNat ∧
        t.trace = s.trace ++ [.arm true, .tx frame count true, .abort])
end

