-- ==== Sys2Proof/Laws/Memory.lean ====
section
/-! SUPPORT. Laws of the byte buffers: what a read after a write gives, and that every operation keeps the canonical
form. -/

namespace Sys2Proof.Machine

@[simp] theorem Memory.read_nil (a : Nat) : Memory.read [] a = 0 := rfl

theorem Memory.read_cons (a b : Nat) (v : Byte) (m : Memory) :
    Memory.read ((b, v) :: m) a = if a = b then v else Memory.read m a := rfl

/-- Below the lowest listed offset everything reads as unlisted. -/
theorem Memory.read_below {lo hi : Nat} {m : Memory} (h : Memory.wfFrom lo hi m = true) {a : Nat} (ha : a < lo) :
    Memory.read m a = 0 := by
  induction m generalizing lo with
  | nil => rfl
  | cons c m ih =>
    obtain ⟨b, w⟩ := c
    simp only [Memory.wfFrom, Bool.and_eq_true, decide_eq_true_eq] at h
    rw [Memory.read_cons, if_neg (by omega)]
    exact ih h.2 (by omega)

/-- At and above the depth everything reads as unlisted. -/
theorem Memory.read_above {lo hi : Nat} {m : Memory} (h : Memory.wfFrom lo hi m = true) {a : Nat} (ha : hi ≤ a) :
    Memory.read m a = 0 := by
  induction m generalizing lo with
  | nil => rfl
  | cons c m ih =>
    obtain ⟨b, w⟩ := c
    simp only [Memory.wfFrom, Bool.and_eq_true, decide_eq_true_eq] at h
    rw [Memory.read_cons, if_neg (by omega)]
    exact ih h.2

theorem Memory.read_consByte {a b : Nat} {v : Byte} {m : Memory} (hm : Memory.read m a = 0) :
    Memory.read (Memory.cons a v m) b = if b = a then v else Memory.read m b := by
  unfold Memory.cons
  split
  · rename_i hv; split
    · rename_i hb; rw [hb, hm, hv]
    · rfl
  · rfl

/-- Read after write, for a buffer in canonical form from some offset on. -/
theorem Memory.read_write_from {lo hi : Nat} {m : Memory} (h : Memory.wfFrom lo hi m = true) (a b : Nat) (v : Byte) :
    Memory.read (Memory.write m a v) b = if b = a then v else Memory.read m b := by
  induction m generalizing lo with
  | nil => exact Memory.read_consByte rfl
  | cons c m ih =>
    obtain ⟨x, w⟩ := c
    have hw := h
    simp only [Memory.wfFrom, Bool.and_eq_true, decide_eq_true_eq] at h
    unfold Memory.write
    split
    · refine Memory.read_consByte ?_
      rw [Memory.read_cons, if_neg (by omega)]
      exact Memory.read_below h.2 (by omega)
    · split
      · rename_i hax
        rw [Memory.read_consByte (Memory.read_below h.2 (by omega)), Memory.read_cons]
        subst hax; split <;> rfl
      · rw [Memory.read_cons, ih h.2, Memory.read_cons]
        split
        · rename_i hbx; rw [if_neg (by omega)]
        · rfl

/-- Read after write (R55). -/
theorem Memory.read_write {d : Nat} {m : Memory} (h : Memory.wf d m = true) (a b : Nat) (v : Byte) :
    Memory.read (Memory.write m a v) b = if b = a then v else Memory.read m b :=
  Memory.read_write_from h a b v

theorem Memory.wfFrom_mono {lo lo' hi : Nat} {m : Memory} (h : Memory.wfFrom lo hi m = true) (hlo : lo' ≤ lo) :
    Memory.wfFrom lo' hi m = true := by
  cases m with
  | nil => rfl
  | cons c m =>
    obtain ⟨x, w⟩ := c
    simp only [Memory.wfFrom, Bool.and_eq_true, decide_eq_true_eq] at h ⊢
    exact ⟨⟨⟨by omega, h.1.1.2⟩, h.1.2⟩, h.2⟩

theorem Memory.wfFrom_le {lo hi hi' : Nat} {m : Memory} (h : Memory.wfFrom lo hi m = true) (hhi : hi ≤ hi') :
    Memory.wfFrom lo hi' m = true := by
  induction m generalizing lo with
  | nil => rfl
  | cons c m ih =>
    obtain ⟨x, w⟩ := c
    simp only [Memory.wfFrom, Bool.and_eq_true, decide_eq_true_eq] at h ⊢
    exact ⟨⟨⟨h.1.1.1, by omega⟩, h.1.2⟩, ih h.2⟩

theorem Memory.wfFrom_cons {lo hi a : Nat} {v : Byte} {m : Memory} (hm : Memory.wfFrom (a + 1) hi m = true)
    (hlo : lo ≤ a) (hhi : a < hi) : Memory.wfFrom lo hi (Memory.cons a v m) = true := by
  unfold Memory.cons
  split
  · exact Memory.wfFrom_mono hm (by omega)
  · rename_i hv
    simp only [Memory.wfFrom, Bool.and_eq_true, decide_eq_true_eq]
    exact ⟨⟨⟨hlo, hhi⟩, hv⟩, hm⟩

theorem Memory.wfFrom_write {lo hi : Nat} {m : Memory} (h : Memory.wfFrom lo hi m = true) {a : Nat} (v : Byte)
    (hlo : lo ≤ a) (hhi : a < hi) : Memory.wfFrom lo hi (Memory.write m a v) = true := by
  induction m generalizing lo with
  | nil => exact Memory.wfFrom_cons rfl hlo hhi
  | cons c m ih =>
    obtain ⟨x, w⟩ := c
    have hw := h
    simp only [Memory.wfFrom, Bool.and_eq_true, decide_eq_true_eq] at h
    unfold Memory.write
    split
    · refine Memory.wfFrom_cons ?_ hlo hhi
      simp only [Memory.wfFrom, Bool.and_eq_true, decide_eq_true_eq]
      exact ⟨⟨⟨by omega, h.1.1.2⟩, h.1.2⟩, h.2⟩
    · split
      · rename_i hax; subst hax
        exact Memory.wfFrom_cons h.2 hlo hhi
      · simp only [Memory.wfFrom, Bool.and_eq_true, decide_eq_true_eq]
        exact ⟨⟨⟨h.1.1.1, h.1.1.2⟩, h.1.2⟩, ih h.2 (by omega)⟩

/-- A write inside the depth keeps the canonical form. -/
theorem Memory.wf_write {d : Nat} {m : Memory} (h : Memory.wf d m = true) {a : Nat} (v : Byte) (ha : a < d) :
    Memory.wf d (Memory.write m a v) = true :=
  Memory.wfFrom_write h v (Nat.zero_le a) ha

/-- Writing a sequence inside the depth keeps the canonical form. -/
theorem Memory.wf_writeBytes {d : Nat} {m : Memory} (h : Memory.wf d m = true) {a : Nat} {bs : List Byte}
    (ha : a + bs.length ≤ d) : Memory.wf d (Memory.writeBytes m a bs) = true := by
  induction bs generalizing m a with
  | nil => exact h
  | cons b bs ih =>
    simp only [List.length_cons] at ha
    exact ih (Memory.wf_write h b (by omega)) (by omega)

/-- Read after writing a sequence: the written byte inside, the old one outside. -/
theorem Memory.read_writeBytes {d : Nat} {m : Memory} (h : Memory.wf d m = true) {a : Nat} {bs : List Byte}
    (ha : a + bs.length ≤ d) (b : Nat) :
    Memory.read (Memory.writeBytes m a bs) b =
      if a ≤ b then (bs[b - a]?).getD (Memory.read m b) else Memory.read m b := by
  induction bs generalizing m a with
  | nil => simp [Memory.writeBytes]
  | cons x bs ih =>
    simp only [List.length_cons] at ha
    rw [Memory.writeBytes, ih (Memory.wf_write h x (by omega)) (by omega), Memory.read_write h]
    by_cases h1 : a + 1 ≤ b
    · obtain ⟨n, rfl⟩ : ∃ n, b = a + 1 + n := ⟨b - (a + 1), by omega⟩
      rw [if_pos h1, if_neg (by omega), if_pos (by omega), show a + 1 + n - (a + 1) = n by omega,
        show a + 1 + n - a = n + 1 by omega, List.getElem?_cons_succ]
    · rw [if_neg h1]
      by_cases h2 : b = a
      · subst h2; simp
      · rw [if_neg h2, if_neg (by omega)]

/-- Outside the written sequence nothing changes. -/
theorem Memory.read_writeBytes_outside {d : Nat} {m : Memory} (h : Memory.wf d m = true) {a : Nat} {bs : List Byte}
    (ha : a + bs.length ≤ d) {b : Nat} (hb : b < a ∨ a + bs.length ≤ b) :
    Memory.read (Memory.writeBytes m a bs) b = Memory.read m b := by
  rw [Memory.read_writeBytes h ha]
  split
  · rw [List.getElem?_eq_none (by omega)]; rfl
  · rfl

@[simp] theorem Memory.length_readBytes (m : Memory) (a n : Nat) : (Memory.readBytes m a n).length = n := by
  induction n generalizing a with
  | zero => rfl
  | succ n ih => simp [Memory.readBytes, ih]

/-- What a sequence read holds. -/
theorem Memory.getElem?_readBytes (m : Memory) (a n i : Nat) :
    (Memory.readBytes m a n)[i]? = if i < n then some (Memory.read m (a + i)) else none := by
  induction n generalizing a i with
  | zero => simp [Memory.readBytes]
  | succ n ih =>
    cases i with
    | zero => simp [Memory.readBytes]
    | succ i =>
      rw [Memory.readBytes, List.getElem?_cons_succ, ih, show a + 1 + i = a + (i + 1) by omega]
      simp only [Nat.add_lt_add_iff_right]

/-- Reading depends on the bytes read alone. -/
theorem Memory.readBytes_congr {m m' : Memory} {a n : Nat}
    (h : ∀ i, a ≤ i → i < a + n → Memory.read m i = Memory.read m' i) :
    Memory.readBytes m a n = Memory.readBytes m' a n := by
  induction n generalizing a with
  | zero => rfl
  | succ n ih =>
    rw [Memory.readBytes, Memory.readBytes, h a (by omega) (by omega), ih (fun i h1 h2 => h i (by omega) (by omega))]

/-- A sequence read back after it was written. -/
theorem Memory.readBytes_writeBytes {d : Nat} {m : Memory} (h : Memory.wf d m = true) {a : Nat} {bs : List Byte}
    (ha : a + bs.length ≤ d) : Memory.readBytes (Memory.writeBytes m a bs) a bs.length = bs := by
  apply List.ext_getElem?
  intro i
  rw [Memory.getElem?_readBytes, Memory.read_writeBytes h ha]
  split
  · rename_i hi
    rw [if_pos (by omega), show a + i - a = i by omega, List.getElem?_eq_getElem hi]; rfl
  · rename_i hi
    rw [List.getElem?_eq_none (by omega)]

@[simp] theorem length_bytesFrom (f : Nat → Byte) (a n : Nat) : (bytesFrom f a n).length = n := by
  induction n generalizing a with
  | zero => rfl
  | succ n ih => simp [bytesFrom, ih]

theorem Memory.wf_ofFn (f : Nat → Byte) (n : Nat) : Memory.wf n (Memory.ofFn f n) = true := by
  unfold Memory.ofFn
  exact Memory.wf_writeBytes rfl (by simp)

/-- Two buffers in canonical form that read alike are the same data. -/
theorem Memory.eq_of_read {lo hi : Nat} {m m' : Memory} (h : Memory.wfFrom lo hi m = true)
    (h' : Memory.wfFrom lo hi m' = true) (hr : ∀ a, Memory.read m a = Memory.read m' a) : m = m' := by
  induction m generalizing lo m' with
  | nil =>
    cases m' with
    | nil => rfl
    | cons c m' =>
      obtain ⟨x, w⟩ := c
      simp only [Memory.wfFrom, Bool.and_eq_true, decide_eq_true_eq] at h'
      exact absurd (by simpa [Memory.read_cons] using (hr x).symm) h'.1.2
  | cons c m ih =>
    obtain ⟨x, w⟩ := c
    simp only [Memory.wfFrom, Bool.and_eq_true, decide_eq_true_eq] at h
    cases m' with
    | nil => exact absurd (by simpa [Memory.read_cons] using hr x) h.1.2
    | cons c' m' =>
      obtain ⟨y, u⟩ := c'
      simp only [Memory.wfFrom, Bool.and_eq_true, decide_eq_true_eq] at h'
      have hxy : x = y := by
        rcases Nat.lt_trichotomy x y with hlt | heq | hgt
        · have := hr x
          rw [Memory.read_cons, if_pos rfl, Memory.read_cons, if_neg (by omega),
            Memory.read_below h'.2 (by omega)] at this
          exact absurd this h.1.2
        · exact heq
        · have := hr y
          rw [Memory.read_cons, if_neg (by omega), Memory.read_cons, if_pos rfl,
            Memory.read_below h.2 (by omega)] at this
          exact absurd this.symm h'.1.2
      subst hxy
      have hw := hr x
      rw [Memory.read_cons, if_pos rfl, Memory.read_cons, if_pos rfl] at hw
      subst hw
      rw [ih h.2 h'.2]
      intro a
      have ha := hr a
      rw [Memory.read_cons, Memory.read_cons] at ha
      by_cases hax : a = x
      · subst hax
        rw [Memory.read_below h.2 (by omega), Memory.read_below h'.2 (by omega)]
      · rwa [if_neg hax, if_neg hax] at ha

end Sys2Proof.Machine
end

