-- ==== Sys2Proof/Laws/State.lean ====
section
/-! SUPPORT. One lemma per field per named update of the state, each true by rfl, so that no proof unfolds an update. -/

namespace Sys2Proof.Machine

variable (s : State)

@[simp] theorem State.zeroResponse_reqCmd : (s.zeroResponse).reqCmd = s.reqCmd := rfl
@[simp] theorem State.zeroResponse_reqLen : (s.zeroResponse).reqLen = s.reqLen := rfl
@[simp] theorem State.zeroResponse_reqData : (s.zeroResponse).reqData = s.reqData := rfl
@[simp] theorem State.zeroResponse_rspCmd : (s.zeroResponse).rspCmd = 0 := rfl
@[simp] theorem State.zeroResponse_rspLen : (s.zeroResponse).rspLen = 0 := rfl
@[simp] theorem State.zeroResponse_rspData : (s.zeroResponse).rspData = [] := rfl
@[simp] theorem State.zeroResponse_err : (s.zeroResponse).err = s.err := rfl
@[simp] theorem State.zeroResponse_tstate : (s.zeroResponse).tstate = s.tstate := rfl
@[simp] theorem State.zeroResponse_opsel : (s.zeroResponse).opsel = s.opsel := rfl
@[simp] theorem State.zeroResponse_done : (s.zeroResponse).done = s.done := rfl
@[simp] theorem State.zeroResponse_rxArmed : (s.zeroResponse).rxArmed = s.rxArmed := rfl
@[simp] theorem State.zeroResponse_complete : (s.zeroResponse).complete = s.complete := rfl
@[simp] theorem State.zeroResponse_txbuf : (s.zeroResponse).txbuf = s.txbuf := rfl
@[simp] theorem State.zeroResponse_txCount : (s.zeroResponse).txCount = s.txCount := rfl
@[simp] theorem State.zeroResponse_rxbuf : (s.zeroResponse).rxbuf = s.rxbuf := rfl
@[simp] theorem State.zeroResponse_t0 : (s.zeroResponse).t0 = s.t0 := rfl
@[simp] theorem State.zeroResponse_now : (s.zeroResponse).now = s.now := rfl
@[simp] theorem State.zeroResponse_rxWr : (s.zeroResponse).rxWr = s.rxWr := rfl
@[simp] theorem State.zeroResponse_waitFail : (s.zeroResponse).waitFail = s.waitFail := rfl
@[simp] theorem State.zeroResponse_outbound : (s.zeroResponse).outbound = s.outbound := rfl
@[simp] theorem State.zeroResponse_inbound : (s.zeroResponse).inbound = s.inbound := rfl
@[simp] theorem State.zeroResponse_trace : (s.zeroResponse).trace = s.trace := rfl
@[simp] theorem State.zeroResponse_dataFormat : (s.zeroResponse).dataFormat = s.dataFormat := rfl
@[simp] theorem State.zeroResponse_dataFormatFetched : (s.zeroResponse).dataFormatFetched = s.dataFormatFetched := rfl
@[simp] theorem State.zeroResponse_sensorData : (s.zeroResponse).sensorData = s.sensorData := rfl
@[simp] theorem State.zeroResponse_query : (s.zeroResponse).query = s.query := rfl
@[simp] theorem State.zeroResponse_result : (s.zeroResponse).result = s.result := rfl
@[simp] theorem State.zeroResponse_inputs : (s.zeroResponse).inputs = s.inputs := rfl
@[simp] theorem State.zeroResponse_hostReadData : (s.zeroResponse).hostReadData = s.hostReadData := rfl
@[simp] theorem State.zeroResponse_draws : (s.zeroResponse).draws = s.draws := rfl
@[simp] theorem State.zeroResponse_clientDraws : (s.zeroResponse).clientDraws = s.clientDraws := rfl

@[simp] theorem State.finish_reqCmd (e : Status) : (s.finish e).reqCmd = s.reqCmd := rfl
@[simp] theorem State.finish_reqLen (e : Status) : (s.finish e).reqLen = s.reqLen := rfl
@[simp] theorem State.finish_reqData (e : Status) : (s.finish e).reqData = s.reqData := rfl
@[simp] theorem State.finish_rspCmd (e : Status) : (s.finish e).rspCmd = s.rspCmd := rfl
@[simp] theorem State.finish_rspLen (e : Status) : (s.finish e).rspLen = s.rspLen := rfl
@[simp] theorem State.finish_rspData (e : Status) : (s.finish e).rspData = s.rspData := rfl
@[simp] theorem State.finish_err (e : Status) : (s.finish e).err = e := rfl
@[simp] theorem State.finish_tstate (e : Status) : (s.finish e).tstate = .idle := rfl
@[simp] theorem State.finish_opsel (e : Status) : (s.finish e).opsel = s.opsel := rfl
@[simp] theorem State.finish_done (e : Status) : (s.finish e).done = true := rfl
@[simp] theorem State.finish_rxArmed (e : Status) : (s.finish e).rxArmed = s.rxArmed := rfl
@[simp] theorem State.finish_complete (e : Status) : (s.finish e).complete = s.complete := rfl
@[simp] theorem State.finish_txbuf (e : Status) : (s.finish e).txbuf = s.txbuf := rfl
@[simp] theorem State.finish_txCount (e : Status) : (s.finish e).txCount = s.txCount := rfl
@[simp] theorem State.finish_rxbuf (e : Status) : (s.finish e).rxbuf = s.rxbuf := rfl
@[simp] theorem State.finish_t0 (e : Status) : (s.finish e).t0 = s.t0 := rfl
@[simp] theorem State.finish_now (e : Status) : (s.finish e).now = s.now := rfl
@[simp] theorem State.finish_rxWr (e : Status) : (s.finish e).rxWr = s.rxWr := rfl
@[simp] theorem State.finish_waitFail (e : Status) : (s.finish e).waitFail = s.waitFail := rfl
@[simp] theorem State.finish_outbound (e : Status) : (s.finish e).outbound = s.outbound := rfl
@[simp] theorem State.finish_inbound (e : Status) : (s.finish e).inbound = s.inbound := rfl
@[simp] theorem State.finish_trace (e : Status) : (s.finish e).trace = s.trace := rfl
@[simp] theorem State.finish_dataFormat (e : Status) : (s.finish e).dataFormat = s.dataFormat := rfl
@[simp] theorem State.finish_dataFormatFetched (e : Status) :
    (s.finish e).dataFormatFetched = s.dataFormatFetched := rfl
@[simp] theorem State.finish_sensorData (e : Status) : (s.finish e).sensorData = s.sensorData := rfl
@[simp] theorem State.finish_query (e : Status) : (s.finish e).query = s.query := rfl
@[simp] theorem State.finish_result (e : Status) : (s.finish e).result = s.result := rfl
@[simp] theorem State.finish_inputs (e : Status) : (s.finish e).inputs = s.inputs := rfl
@[simp] theorem State.finish_hostReadData (e : Status) : (s.finish e).hostReadData = s.hostReadData := rfl
@[simp] theorem State.finish_draws (e : Status) : (s.finish e).draws = s.draws := rfl
@[simp] theorem State.finish_clientDraws (e : Status) : (s.finish e).clientDraws = s.clientDraws := rfl

@[simp] theorem State.failureExit_reqCmd (e : Status) : (s.failureExit e).reqCmd = s.reqCmd := rfl
@[simp] theorem State.failureExit_reqLen (e : Status) : (s.failureExit e).reqLen = s.reqLen := rfl
@[simp] theorem State.failureExit_reqData (e : Status) : (s.failureExit e).reqData = s.reqData := rfl
@[simp] theorem State.failureExit_rspCmd (e : Status) : (s.failureExit e).rspCmd = 0 := rfl
@[simp] theorem State.failureExit_rspLen (e : Status) : (s.failureExit e).rspLen = 0 := rfl
@[simp] theorem State.failureExit_rspData (e : Status) : (s.failureExit e).rspData = [] := rfl
@[simp] theorem State.failureExit_err (e : Status) : (s.failureExit e).err = e := rfl
@[simp] theorem State.failureExit_tstate (e : Status) : (s.failureExit e).tstate = .idle := rfl
@[simp] theorem State.failureExit_opsel (e : Status) : (s.failureExit e).opsel = s.opsel := rfl
@[simp] theorem State.failureExit_done (e : Status) : (s.failureExit e).done = true := rfl
@[simp] theorem State.failureExit_rxArmed (e : Status) : (s.failureExit e).rxArmed = s.rxArmed := rfl
@[simp] theorem State.failureExit_complete (e : Status) : (s.failureExit e).complete = s.complete := rfl
@[simp] theorem State.failureExit_txbuf (e : Status) : (s.failureExit e).txbuf = s.txbuf := rfl
@[simp] theorem State.failureExit_txCount (e : Status) : (s.failureExit e).txCount = s.txCount := rfl
@[simp] theorem State.failureExit_rxbuf (e : Status) : (s.failureExit e).rxbuf = s.rxbuf := rfl
@[simp] theorem State.failureExit_t0 (e : Status) : (s.failureExit e).t0 = s.t0 := rfl
@[simp] theorem State.failureExit_now (e : Status) : (s.failureExit e).now = s.now := rfl
@[simp] theorem State.failureExit_rxWr (e : Status) : (s.failureExit e).rxWr = s.rxWr := rfl
@[simp] theorem State.failureExit_waitFail (e : Status) : (s.failureExit e).waitFail = s.waitFail := rfl
@[simp] theorem State.failureExit_outbound (e : Status) : (s.failureExit e).outbound = s.outbound := rfl
@[simp] theorem State.failureExit_inbound (e : Status) : (s.failureExit e).inbound = s.inbound := rfl
@[simp] theorem State.failureExit_trace (e : Status) : (s.failureExit e).trace = s.trace := rfl
@[simp] theorem State.failureExit_dataFormat (e : Status) : (s.failureExit e).dataFormat = s.dataFormat := rfl
@[simp] theorem State.failureExit_dataFormatFetched (e : Status) :
    (s.failureExit e).dataFormatFetched = s.dataFormatFetched := rfl
@[simp] theorem State.failureExit_sensorData (e : Status) : (s.failureExit e).sensorData = s.sensorData := rfl
@[simp] theorem State.failureExit_query (e : Status) : (s.failureExit e).query = s.query := rfl
@[simp] theorem State.failureExit_result (e : Status) : (s.failureExit e).result = s.result := rfl
@[simp] theorem State.failureExit_inputs (e : Status) : (s.failureExit e).inputs = s.inputs := rfl
@[simp] theorem State.failureExit_hostReadData (e : Status) : (s.failureExit e).hostReadData = s.hostReadData := rfl
@[simp] theorem State.failureExit_draws (e : Status) : (s.failureExit e).draws = s.draws := rfl
@[simp] theorem State.failureExit_clientDraws (e : Status) : (s.failureExit e).clientDraws = s.clientDraws := rfl

@[simp] theorem State.acceptStart_reqCmd (op : UnitOp) : (s.acceptStart op).reqCmd = s.reqCmd := rfl
@[simp] theorem State.acceptStart_reqLen (op : UnitOp) : (s.acceptStart op).reqLen = s.reqLen := rfl
@[simp] theorem State.acceptStart_reqData (op : UnitOp) : (s.acceptStart op).reqData = s.reqData := rfl
@[simp] theorem State.acceptStart_rspCmd (op : UnitOp) : (s.acceptStart op).rspCmd = s.rspCmd := rfl
@[simp] theorem State.acceptStart_rspLen (op : UnitOp) : (s.acceptStart op).rspLen = s.rspLen := rfl
@[simp] theorem State.acceptStart_rspData (op : UnitOp) : (s.acceptStart op).rspData = s.rspData := rfl
@[simp] theorem State.acceptStart_err (op : UnitOp) : (s.acceptStart op).err = s.err := rfl
@[simp] theorem State.acceptStart_tstate (op : UnitOp) : (s.acceptStart op).tstate = s.tstate := rfl
@[simp] theorem State.acceptStart_opsel (op : UnitOp) : (s.acceptStart op).opsel = op := rfl
@[simp] theorem State.acceptStart_done (op : UnitOp) : (s.acceptStart op).done = false := rfl
@[simp] theorem State.acceptStart_rxArmed (op : UnitOp) : (s.acceptStart op).rxArmed = s.rxArmed := rfl
@[simp] theorem State.acceptStart_complete (op : UnitOp) : (s.acceptStart op).complete = s.complete := rfl
@[simp] theorem State.acceptStart_txbuf (op : UnitOp) : (s.acceptStart op).txbuf = s.txbuf := rfl
@[simp] theorem State.acceptStart_txCount (op : UnitOp) : (s.acceptStart op).txCount = s.txCount := rfl
@[simp] theorem State.acceptStart_rxbuf (op : UnitOp) : (s.acceptStart op).rxbuf = s.rxbuf := rfl
@[simp] theorem State.acceptStart_t0 (op : UnitOp) : (s.acceptStart op).t0 = s.t0 := rfl
@[simp] theorem State.acceptStart_now (op : UnitOp) : (s.acceptStart op).now = s.now := rfl
@[simp] theorem State.acceptStart_rxWr (op : UnitOp) : (s.acceptStart op).rxWr = s.rxWr := rfl
@[simp] theorem State.acceptStart_waitFail (op : UnitOp) : (s.acceptStart op).waitFail = s.waitFail := rfl
@[simp] theorem State.acceptStart_outbound (op : UnitOp) : (s.acceptStart op).outbound = s.outbound := rfl
@[simp] theorem State.acceptStart_inbound (op : UnitOp) : (s.acceptStart op).inbound = s.inbound := rfl
@[simp] theorem State.acceptStart_trace (op : UnitOp) : (s.acceptStart op).trace = s.trace := rfl
@[simp] theorem State.acceptStart_dataFormat (op : UnitOp) : (s.acceptStart op).dataFormat = s.dataFormat := rfl
@[simp] theorem State.acceptStart_dataFormatFetched (op : UnitOp) :
    (s.acceptStart op).dataFormatFetched = s.dataFormatFetched := rfl
@[simp] theorem State.acceptStart_sensorData (op : UnitOp) : (s.acceptStart op).sensorData = s.sensorData := rfl
@[simp] theorem State.acceptStart_query (op : UnitOp) : (s.acceptStart op).query = s.query := rfl
@[simp] theorem State.acceptStart_result (op : UnitOp) : (s.acceptStart op).result = s.result := rfl
@[simp] theorem State.acceptStart_inputs (op : UnitOp) : (s.acceptStart op).inputs = s.inputs := rfl
@[simp] theorem State.acceptStart_hostReadData (op : UnitOp) : (s.acceptStart op).hostReadData = s.hostReadData := rfl
@[simp] theorem State.acceptStart_draws (op : UnitOp) : (s.acceptStart op).draws = s.draws := rfl
@[simp] theorem State.acceptStart_clientDraws (op : UnitOp) : (s.acceptStart op).clientDraws = s.clientDraws := rfl

@[simp] theorem State.record_reqCmd (e : TransportEvent) : (s.record e).reqCmd = s.reqCmd := rfl
@[simp] theorem State.record_reqLen (e : TransportEvent) : (s.record e).reqLen = s.reqLen := rfl
@[simp] theorem State.record_reqData (e : TransportEvent) : (s.record e).reqData = s.reqData := rfl
@[simp] theorem State.record_rspCmd (e : TransportEvent) : (s.record e).rspCmd = s.rspCmd := rfl
@[simp] theorem State.record_rspLen (e : TransportEvent) : (s.record e).rspLen = s.rspLen := rfl
@[simp] theorem State.record_rspData (e : TransportEvent) : (s.record e).rspData = s.rspData := rfl
@[simp] theorem State.record_err (e : TransportEvent) : (s.record e).err = s.err := rfl
@[simp] theorem State.record_tstate (e : TransportEvent) : (s.record e).tstate = s.tstate := rfl
@[simp] theorem State.record_opsel (e : TransportEvent) : (s.record e).opsel = s.opsel := rfl
@[simp] theorem State.record_done (e : TransportEvent) : (s.record e).done = s.done := rfl
@[simp] theorem State.record_rxArmed (e : TransportEvent) : (s.record e).rxArmed = s.rxArmed := rfl
@[simp] theorem State.record_complete (e : TransportEvent) : (s.record e).complete = s.complete := rfl
@[simp] theorem State.record_txbuf (e : TransportEvent) : (s.record e).txbuf = s.txbuf := rfl
@[simp] theorem State.record_txCount (e : TransportEvent) : (s.record e).txCount = s.txCount := rfl
@[simp] theorem State.record_rxbuf (e : TransportEvent) : (s.record e).rxbuf = s.rxbuf := rfl
@[simp] theorem State.record_t0 (e : TransportEvent) : (s.record e).t0 = s.t0 := rfl
@[simp] theorem State.record_now (e : TransportEvent) : (s.record e).now = s.now := rfl
@[simp] theorem State.record_rxWr (e : TransportEvent) : (s.record e).rxWr = s.rxWr := rfl
@[simp] theorem State.record_waitFail (e : TransportEvent) : (s.record e).waitFail = s.waitFail := rfl
@[simp] theorem State.record_outbound (e : TransportEvent) : (s.record e).outbound = s.outbound := rfl
@[simp] theorem State.record_inbound (e : TransportEvent) : (s.record e).inbound = s.inbound := rfl
@[simp] theorem State.record_trace (e : TransportEvent) : (s.record e).trace = s.trace ++ [e] := rfl
@[simp] theorem State.record_dataFormat (e : TransportEvent) : (s.record e).dataFormat = s.dataFormat := rfl
@[simp] theorem State.record_dataFormatFetched (e : TransportEvent) :
    (s.record e).dataFormatFetched = s.dataFormatFetched := rfl
@[simp] theorem State.record_sensorData (e : TransportEvent) : (s.record e).sensorData = s.sensorData := rfl
@[simp] theorem State.record_query (e : TransportEvent) : (s.record e).query = s.query := rfl
@[simp] theorem State.record_result (e : TransportEvent) : (s.record e).result = s.result := rfl
@[simp] theorem State.record_inputs (e : TransportEvent) : (s.record e).inputs = s.inputs := rfl
@[simp] theorem State.record_hostReadData (e : TransportEvent) : (s.record e).hostReadData = s.hostReadData := rfl
@[simp] theorem State.record_draws (e : TransportEvent) : (s.record e).draws = s.draws := rfl
@[simp] theorem State.record_clientDraws (e : TransportEvent) : (s.record e).clientDraws = s.clientDraws := rfl

@[simp] theorem State.abortReceive_reqCmd : (s.abortReceive).reqCmd = s.reqCmd := rfl
@[simp] theorem State.abortReceive_reqLen : (s.abortReceive).reqLen = s.reqLen := rfl
@[simp] theorem State.abortReceive_reqData : (s.abortReceive).reqData = s.reqData := rfl
@[simp] theorem State.abortReceive_rspCmd : (s.abortReceive).rspCmd = s.rspCmd := rfl
@[simp] theorem State.abortReceive_rspLen : (s.abortReceive).rspLen = s.rspLen := rfl
@[simp] theorem State.abortReceive_rspData : (s.abortReceive).rspData = s.rspData := rfl
@[simp] theorem State.abortReceive_err : (s.abortReceive).err = s.err := rfl
@[simp] theorem State.abortReceive_tstate : (s.abortReceive).tstate = s.tstate := rfl
@[simp] theorem State.abortReceive_opsel : (s.abortReceive).opsel = s.opsel := rfl
@[simp] theorem State.abortReceive_done : (s.abortReceive).done = s.done := rfl
@[simp] theorem State.abortReceive_rxArmed : (s.abortReceive).rxArmed = false := rfl
@[simp] theorem State.abortReceive_complete : (s.abortReceive).complete = s.complete := rfl
@[simp] theorem State.abortReceive_txbuf : (s.abortReceive).txbuf = s.txbuf := rfl
@[simp] theorem State.abortReceive_txCount : (s.abortReceive).txCount = s.txCount := rfl
@[simp] theorem State.abortReceive_rxbuf : (s.abortReceive).rxbuf = s.rxbuf := rfl
@[simp] theorem State.abortReceive_t0 : (s.abortReceive).t0 = s.t0 := rfl
@[simp] theorem State.abortReceive_now : (s.abortReceive).now = s.now := rfl
@[simp] theorem State.abortReceive_rxWr : (s.abortReceive).rxWr = s.rxWr := rfl
@[simp] theorem State.abortReceive_waitFail : (s.abortReceive).waitFail = s.waitFail := rfl
@[simp] theorem State.abortReceive_outbound : (s.abortReceive).outbound = s.outbound := rfl
@[simp] theorem State.abortReceive_inbound : (s.abortReceive).inbound = s.inbound := rfl
@[simp] theorem State.abortReceive_trace : (s.abortReceive).trace = s.trace ++ [.abort] := rfl
@[simp] theorem State.abortReceive_dataFormat : (s.abortReceive).dataFormat = s.dataFormat := rfl
@[simp] theorem State.abortReceive_dataFormatFetched : (s.abortReceive).dataFormatFetched = s.dataFormatFetched := rfl
@[simp] theorem State.abortReceive_sensorData : (s.abortReceive).sensorData = s.sensorData := rfl
@[simp] theorem State.abortReceive_query : (s.abortReceive).query = s.query := rfl
@[simp] theorem State.abortReceive_result : (s.abortReceive).result = s.result := rfl
@[simp] theorem State.abortReceive_inputs : (s.abortReceive).inputs = s.inputs := rfl
@[simp] theorem State.abortReceive_hostReadData : (s.abortReceive).hostReadData = s.hostReadData := rfl
@[simp] theorem State.abortReceive_draws : (s.abortReceive).draws = s.draws := rfl
@[simp] theorem State.abortReceive_clientDraws : (s.abortReceive).clientDraws = s.clientDraws := rfl

@[simp] theorem State.armReceive_reqCmd : (s.armReceive).reqCmd = s.reqCmd := rfl
@[simp] theorem State.armReceive_reqLen : (s.armReceive).reqLen = s.reqLen := rfl
@[simp] theorem State.armReceive_reqData : (s.armReceive).reqData = s.reqData := rfl
@[simp] theorem State.armReceive_rspCmd : (s.armReceive).rspCmd = s.rspCmd := rfl
@[simp] theorem State.armReceive_rspLen : (s.armReceive).rspLen = s.rspLen := rfl
@[simp] theorem State.armReceive_rspData : (s.armReceive).rspData = s.rspData := rfl
@[simp] theorem State.armReceive_err : (s.armReceive).err = s.err := rfl
@[simp] theorem State.armReceive_tstate : (s.armReceive).tstate = s.tstate := rfl
@[simp] theorem State.armReceive_opsel : (s.armReceive).opsel = s.opsel := rfl
@[simp] theorem State.armReceive_done : (s.armReceive).done = s.done := rfl
@[simp] theorem State.armReceive_rxArmed : (s.armReceive).rxArmed = true := rfl
@[simp] theorem State.armReceive_complete : (s.armReceive).complete = s.complete := rfl
@[simp] theorem State.armReceive_txbuf : (s.armReceive).txbuf = s.txbuf := rfl
@[simp] theorem State.armReceive_txCount : (s.armReceive).txCount = s.txCount := rfl
@[simp] theorem State.armReceive_rxbuf : (s.armReceive).rxbuf = s.rxbuf := rfl
@[simp] theorem State.armReceive_t0 : (s.armReceive).t0 = s.t0 := rfl
@[simp] theorem State.armReceive_now : (s.armReceive).now = s.now := rfl
@[simp] theorem State.armReceive_rxWr : (s.armReceive).rxWr = 0 := rfl
@[simp] theorem State.armReceive_waitFail : (s.armReceive).waitFail = s.waitFail := rfl
@[simp] theorem State.armReceive_outbound : (s.armReceive).outbound = s.outbound := rfl
@[simp] theorem State.armReceive_inbound : (s.armReceive).inbound = s.inbound := rfl
@[simp] theorem State.armReceive_trace : (s.armReceive).trace = s.trace := rfl
@[simp] theorem State.armReceive_dataFormat : (s.armReceive).dataFormat = s.dataFormat := rfl
@[simp] theorem State.armReceive_dataFormatFetched : (s.armReceive).dataFormatFetched = s.dataFormatFetched := rfl
@[simp] theorem State.armReceive_sensorData : (s.armReceive).sensorData = s.sensorData := rfl
@[simp] theorem State.armReceive_query : (s.armReceive).query = s.query := rfl
@[simp] theorem State.armReceive_result : (s.armReceive).result = s.result := rfl
@[simp] theorem State.armReceive_inputs : (s.armReceive).inputs = s.inputs := rfl
@[simp] theorem State.armReceive_hostReadData : (s.armReceive).hostReadData = s.hostReadData := rfl
@[simp] theorem State.armReceive_draws : (s.armReceive).draws = s.draws := rfl
@[simp] theorem State.armReceive_clientDraws : (s.armReceive).clientDraws = s.clientDraws := rfl

@[simp] theorem State.sendBytes_reqCmd (bs : List Byte) : (s.sendBytes bs).reqCmd = s.reqCmd := rfl
@[simp] theorem State.sendBytes_reqLen (bs : List Byte) : (s.sendBytes bs).reqLen = s.reqLen := rfl
@[simp] theorem State.sendBytes_reqData (bs : List Byte) : (s.sendBytes bs).reqData = s.reqData := rfl
@[simp] theorem State.sendBytes_rspCmd (bs : List Byte) : (s.sendBytes bs).rspCmd = s.rspCmd := rfl
@[simp] theorem State.sendBytes_rspLen (bs : List Byte) : (s.sendBytes bs).rspLen = s.rspLen := rfl
@[simp] theorem State.sendBytes_rspData (bs : List Byte) : (s.sendBytes bs).rspData = s.rspData := rfl
@[simp] theorem State.sendBytes_err (bs : List Byte) : (s.sendBytes bs).err = s.err := rfl
@[simp] theorem State.sendBytes_tstate (bs : List Byte) : (s.sendBytes bs).tstate = s.tstate := rfl
@[simp] theorem State.sendBytes_opsel (bs : List Byte) : (s.sendBytes bs).opsel = s.opsel := rfl
@[simp] theorem State.sendBytes_done (bs : List Byte) : (s.sendBytes bs).done = s.done := rfl
@[simp] theorem State.sendBytes_rxArmed (bs : List Byte) : (s.sendBytes bs).rxArmed = s.rxArmed := rfl
@[simp] theorem State.sendBytes_complete (bs : List Byte) : (s.sendBytes bs).complete = s.complete := rfl
@[simp] theorem State.sendBytes_txbuf (bs : List Byte) : (s.sendBytes bs).txbuf = s.txbuf := rfl
@[simp] theorem State.sendBytes_txCount (bs : List Byte) : (s.sendBytes bs).txCount = s.txCount := rfl
@[simp] theorem State.sendBytes_rxbuf (bs : List Byte) : (s.sendBytes bs).rxbuf = s.rxbuf := rfl
@[simp] theorem State.sendBytes_t0 (bs : List Byte) : (s.sendBytes bs).t0 = s.t0 := rfl
@[simp] theorem State.sendBytes_now (bs : List Byte) : (s.sendBytes bs).now = s.now := rfl
@[simp] theorem State.sendBytes_rxWr (bs : List Byte) : (s.sendBytes bs).rxWr = s.rxWr := rfl
@[simp] theorem State.sendBytes_waitFail (bs : List Byte) : (s.sendBytes bs).waitFail = s.waitFail := rfl
@[simp] theorem State.sendBytes_outbound (bs : List Byte) : (s.sendBytes bs).outbound = s.outbound ++ bs := rfl
@[simp] theorem State.sendBytes_inbound (bs : List Byte) : (s.sendBytes bs).inbound = s.inbound := rfl
@[simp] theorem State.sendBytes_trace (bs : List Byte) : (s.sendBytes bs).trace = s.trace := rfl
@[simp] theorem State.sendBytes_dataFormat (bs : List Byte) : (s.sendBytes bs).dataFormat = s.dataFormat := rfl
@[simp] theorem State.sendBytes_dataFormatFetched (bs : List Byte) :
    (s.sendBytes bs).dataFormatFetched = s.dataFormatFetched := rfl
@[simp] theorem State.sendBytes_sensorData (bs : List Byte) : (s.sendBytes bs).sensorData = s.sensorData := rfl
@[simp] theorem State.sendBytes_query (bs : List Byte) : (s.sendBytes bs).query = s.query := rfl
@[simp] theorem State.sendBytes_result (bs : List Byte) : (s.sendBytes bs).result = s.result := rfl
@[simp] theorem State.sendBytes_inputs (bs : List Byte) : (s.sendBytes bs).inputs = s.inputs := rfl
@[simp] theorem State.sendBytes_hostReadData (bs : List Byte) : (s.sendBytes bs).hostReadData = s.hostReadData := rfl
@[simp] theorem State.sendBytes_draws (bs : List Byte) : (s.sendBytes bs).draws = s.draws := rfl
@[simp] theorem State.sendBytes_clientDraws (bs : List Byte) : (s.sendBytes bs).clientDraws = s.clientDraws := rfl

@[simp] theorem State.draw_reqCmd : (s.draw).reqCmd = s.reqCmd := rfl
@[simp] theorem State.draw_reqLen : (s.draw).reqLen = s.reqLen := rfl
@[simp] theorem State.draw_reqData : (s.draw).reqData = s.reqData := rfl
@[simp] theorem State.draw_rspCmd : (s.draw).rspCmd = s.rspCmd := rfl
@[simp] theorem State.draw_rspLen : (s.draw).rspLen = s.rspLen := rfl
@[simp] theorem State.draw_rspData : (s.draw).rspData = s.rspData := rfl
@[simp] theorem State.draw_err : (s.draw).err = s.err := rfl
@[simp] theorem State.draw_tstate : (s.draw).tstate = s.tstate := rfl
@[simp] theorem State.draw_opsel : (s.draw).opsel = s.opsel := rfl
@[simp] theorem State.draw_done : (s.draw).done = s.done := rfl
@[simp] theorem State.draw_rxArmed : (s.draw).rxArmed = s.rxArmed := rfl
@[simp] theorem State.draw_complete : (s.draw).complete = s.complete := rfl
@[simp] theorem State.draw_txbuf : (s.draw).txbuf = s.txbuf := rfl
@[simp] theorem State.draw_txCount : (s.draw).txCount = s.txCount := rfl
@[simp] theorem State.draw_rxbuf : (s.draw).rxbuf = s.rxbuf := rfl
@[simp] theorem State.draw_t0 : (s.draw).t0 = s.t0 := rfl
@[simp] theorem State.draw_now : (s.draw).now = s.now := rfl
@[simp] theorem State.draw_rxWr : (s.draw).rxWr = s.rxWr := rfl
@[simp] theorem State.draw_waitFail : (s.draw).waitFail = s.waitFail := rfl
@[simp] theorem State.draw_outbound : (s.draw).outbound = s.outbound := rfl
@[simp] theorem State.draw_inbound : (s.draw).inbound = s.inbound := rfl
@[simp] theorem State.draw_trace : (s.draw).trace = s.trace := rfl
@[simp] theorem State.draw_dataFormat : (s.draw).dataFormat = s.dataFormat := rfl
@[simp] theorem State.draw_dataFormatFetched : (s.draw).dataFormatFetched = s.dataFormatFetched := rfl
@[simp] theorem State.draw_sensorData : (s.draw).sensorData = s.sensorData := rfl
@[simp] theorem State.draw_query : (s.draw).query = s.query := rfl
@[simp] theorem State.draw_result : (s.draw).result = s.result := rfl
@[simp] theorem State.draw_inputs : (s.draw).inputs = s.inputs := rfl
@[simp] theorem State.draw_hostReadData : (s.draw).hostReadData = s.hostReadData := rfl
@[simp] theorem State.draw_draws : (s.draw).draws = s.draws + 1 := rfl
@[simp] theorem State.draw_clientDraws : (s.draw).clientDraws = s.clientDraws := rfl

@[simp] theorem State.clearRx_reqCmd : (State.clearRx s).reqCmd = s.reqCmd := rfl
@[simp] theorem State.clearRx_reqLen : (State.clearRx s).reqLen = s.reqLen := rfl
@[simp] theorem State.clearRx_reqData : (State.clearRx s).reqData = s.reqData := rfl
@[simp] theorem State.clearRx_rspCmd : (State.clearRx s).rspCmd = s.rspCmd := rfl
@[simp] theorem State.clearRx_rspLen : (State.clearRx s).rspLen = s.rspLen := rfl
@[simp] theorem State.clearRx_rspData : (State.clearRx s).rspData = s.rspData := rfl
@[simp] theorem State.clearRx_err : (State.clearRx s).err = s.err := rfl
@[simp] theorem State.clearRx_tstate : (State.clearRx s).tstate = s.tstate := rfl
@[simp] theorem State.clearRx_opsel : (State.clearRx s).opsel = s.opsel := rfl
@[simp] theorem State.clearRx_done : (State.clearRx s).done = s.done := rfl
@[simp] theorem State.clearRx_rxArmed : (State.clearRx s).rxArmed = s.rxArmed := rfl
@[simp] theorem State.clearRx_complete : (State.clearRx s).complete = s.complete := rfl
@[simp] theorem State.clearRx_txbuf : (State.clearRx s).txbuf = s.txbuf := rfl
@[simp] theorem State.clearRx_txCount : (State.clearRx s).txCount = s.txCount := rfl
@[simp] theorem State.clearRx_rxbuf : (State.clearRx s).rxbuf = [] := rfl
@[simp] theorem State.clearRx_t0 : (State.clearRx s).t0 = s.t0 := rfl
@[simp] theorem State.clearRx_now : (State.clearRx s).now = s.now := rfl
@[simp] theorem State.clearRx_rxWr : (State.clearRx s).rxWr = s.rxWr := rfl
@[simp] theorem State.clearRx_waitFail : (State.clearRx s).waitFail = s.waitFail := rfl
@[simp] theorem State.clearRx_outbound : (State.clearRx s).outbound = s.outbound := rfl
@[simp] theorem State.clearRx_inbound : (State.clearRx s).inbound = s.inbound := rfl
@[simp] theorem State.clearRx_trace : (State.clearRx s).trace = s.trace := rfl
@[simp] theorem State.clearRx_dataFormat : (State.clearRx s).dataFormat = s.dataFormat := rfl
@[simp] theorem State.clearRx_dataFormatFetched : (State.clearRx s).dataFormatFetched = s.dataFormatFetched := rfl
@[simp] theorem State.clearRx_sensorData : (State.clearRx s).sensorData = s.sensorData := rfl
@[simp] theorem State.clearRx_query : (State.clearRx s).query = s.query := rfl
@[simp] theorem State.clearRx_result : (State.clearRx s).result = s.result := rfl
@[simp] theorem State.clearRx_inputs : (State.clearRx s).inputs = s.inputs := rfl
@[simp] theorem State.clearRx_hostReadData : (State.clearRx s).hostReadData = s.hostReadData := rfl
@[simp] theorem State.clearRx_draws : (State.clearRx s).draws = s.draws := rfl
@[simp] theorem State.clearRx_clientDraws : (State.clearRx s).clientDraws = s.clientDraws := rfl

@[simp] theorem State.encodeRequest_reqCmd (k : Config) : (State.encodeRequest k s).reqCmd = s.reqCmd := rfl
@[simp] theorem State.encodeRequest_reqLen (k : Config) : (State.encodeRequest k s).reqLen = s.reqLen := rfl
@[simp] theorem State.encodeRequest_reqData (k : Config) : (State.encodeRequest k s).reqData = s.reqData := rfl
@[simp] theorem State.encodeRequest_rspCmd (k : Config) : (State.encodeRequest k s).rspCmd = s.rspCmd := rfl
@[simp] theorem State.encodeRequest_rspLen (k : Config) : (State.encodeRequest k s).rspLen = s.rspLen := rfl
@[simp] theorem State.encodeRequest_rspData (k : Config) : (State.encodeRequest k s).rspData = s.rspData := rfl
@[simp] theorem State.encodeRequest_err (k : Config) : (State.encodeRequest k s).err = s.err := rfl
@[simp] theorem State.encodeRequest_tstate (k : Config) : (State.encodeRequest k s).tstate = s.tstate := rfl
@[simp] theorem State.encodeRequest_opsel (k : Config) : (State.encodeRequest k s).opsel = s.opsel := rfl
@[simp] theorem State.encodeRequest_done (k : Config) : (State.encodeRequest k s).done = s.done := rfl
@[simp] theorem State.encodeRequest_rxArmed (k : Config) : (State.encodeRequest k s).rxArmed = s.rxArmed := rfl
@[simp] theorem State.encodeRequest_complete (k : Config) : (State.encodeRequest k s).complete = s.complete := rfl
@[simp] theorem State.encodeRequest_txbuf (k : Config) :
    (State.encodeRequest k s).txbuf = Memory.writeBytes s.txbuf 0 (encodeFrame k s.reqCmd s.requestData) := rfl
@[simp] theorem State.encodeRequest_txCount (k : Config) :
    (State.encodeRequest k s).txCount = BitVec.ofNat 9 (encodeFrame k s.reqCmd s.requestData).length := rfl
@[simp] theorem State.encodeRequest_rxbuf (k : Config) : (State.encodeRequest k s).rxbuf = s.rxbuf := rfl
@[simp] theorem State.encodeRequest_t0 (k : Config) : (State.encodeRequest k s).t0 = s.t0 := rfl
@[simp] theorem State.encodeRequest_now (k : Config) : (State.encodeRequest k s).now = s.now := rfl
@[simp] theorem State.encodeRequest_rxWr (k : Config) : (State.encodeRequest k s).rxWr = s.rxWr := rfl
@[simp] theorem State.encodeRequest_waitFail (k : Config) : (State.encodeRequest k s).waitFail = s.waitFail := rfl
@[simp] theorem State.encodeRequest_outbound (k : Config) : (State.encodeRequest k s).outbound = s.outbound := rfl
@[simp] theorem State.encodeRequest_inbound (k : Config) : (State.encodeRequest k s).inbound = s.inbound := rfl
@[simp] theorem State.encodeRequest_trace (k : Config) : (State.encodeRequest k s).trace = s.trace := rfl
@[simp] theorem State.encodeRequest_dataFormat (k : Config) : (State.encodeRequest k s).dataFormat = s.dataFormat := rfl
@[simp] theorem State.encodeRequest_dataFormatFetched (k : Config) :
    (State.encodeRequest k s).dataFormatFetched = s.dataFormatFetched := rfl
@[simp] theorem State.encodeRequest_sensorData (k : Config) : (State.encodeRequest k s).sensorData = s.sensorData := rfl
@[simp] theorem State.encodeRequest_query (k : Config) : (State.encodeRequest k s).query = s.query := rfl
@[simp] theorem State.encodeRequest_result (k : Config) : (State.encodeRequest k s).result = s.result := rfl
@[simp] theorem State.encodeRequest_inputs (k : Config) : (State.encodeRequest k s).inputs = s.inputs := rfl
@[simp] theorem State.encodeRequest_hostReadData (k : Config) :
    (State.encodeRequest k s).hostReadData = s.hostReadData := rfl
@[simp] theorem State.encodeRequest_draws (k : Config) : (State.encodeRequest k s).draws = s.draws := rfl
@[simp] theorem State.encodeRequest_clientDraws (k : Config) :
    (State.encodeRequest k s).clientDraws = s.clientDraws := rfl

@[simp] theorem State.openQuery_reqCmd (q : Query) : (State.openQuery q s).reqCmd = s.reqCmd := rfl
@[simp] theorem State.openQuery_reqLen (q : Query) : (State.openQuery q s).reqLen = s.reqLen := rfl
@[simp] theorem State.openQuery_reqData (q : Query) : (State.openQuery q s).reqData = s.reqData := rfl
@[simp] theorem State.openQuery_rspCmd (q : Query) : (State.openQuery q s).rspCmd = s.rspCmd := rfl
@[simp] theorem State.openQuery_rspLen (q : Query) : (State.openQuery q s).rspLen = s.rspLen := rfl
@[simp] theorem State.openQuery_rspData (q : Query) : (State.openQuery q s).rspData = s.rspData := rfl
@[simp] theorem State.openQuery_err (q : Query) : (State.openQuery q s).err = s.err := rfl
@[simp] theorem State.openQuery_tstate (q : Query) : (State.openQuery q s).tstate = s.tstate := rfl
@[simp] theorem State.openQuery_opsel (q : Query) : (State.openQuery q s).opsel = s.opsel := rfl
@[simp] theorem State.openQuery_done (q : Query) : (State.openQuery q s).done = s.done := rfl
@[simp] theorem State.openQuery_rxArmed (q : Query) : (State.openQuery q s).rxArmed = s.rxArmed := rfl
@[simp] theorem State.openQuery_complete (q : Query) : (State.openQuery q s).complete = s.complete := rfl
@[simp] theorem State.openQuery_txbuf (q : Query) : (State.openQuery q s).txbuf = s.txbuf := rfl
@[simp] theorem State.openQuery_txCount (q : Query) : (State.openQuery q s).txCount = s.txCount := rfl
@[simp] theorem State.openQuery_rxbuf (q : Query) : (State.openQuery q s).rxbuf = s.rxbuf := rfl
@[simp] theorem State.openQuery_t0 (q : Query) : (State.openQuery q s).t0 = s.t0 := rfl
@[simp] theorem State.openQuery_now (q : Query) : (State.openQuery q s).now = s.now := rfl
@[simp] theorem State.openQuery_rxWr (q : Query) : (State.openQuery q s).rxWr = s.rxWr := rfl
@[simp] theorem State.openQuery_waitFail (q : Query) : (State.openQuery q s).waitFail = s.waitFail := rfl
@[simp] theorem State.openQuery_outbound (q : Query) : (State.openQuery q s).outbound = s.outbound := rfl
@[simp] theorem State.openQuery_inbound (q : Query) : (State.openQuery q s).inbound = s.inbound := rfl
@[simp] theorem State.openQuery_trace (q : Query) : (State.openQuery q s).trace = s.trace := rfl
@[simp] theorem State.openQuery_dataFormat (q : Query) : (State.openQuery q s).dataFormat = s.dataFormat := rfl
@[simp] theorem State.openQuery_dataFormatFetched (q : Query) :
    (State.openQuery q s).dataFormatFetched = s.dataFormatFetched := rfl
@[simp] theorem State.openQuery_sensorData (q : Query) : (State.openQuery q s).sensorData = none := rfl
@[simp] theorem State.openQuery_query (q : Query) : (State.openQuery q s).query = some q := rfl
@[simp] theorem State.openQuery_result (q : Query) : (State.openQuery q s).result = none := rfl
@[simp] theorem State.openQuery_inputs (q : Query) : (State.openQuery q s).inputs = s.inputs := rfl
@[simp] theorem State.openQuery_hostReadData (q : Query) : (State.openQuery q s).hostReadData = s.hostReadData := rfl
@[simp] theorem State.openQuery_draws (q : Query) : (State.openQuery q s).draws = s.draws := rfl
@[simp] theorem State.openQuery_clientDraws (q : Query) : (State.openQuery q s).clientDraws = s.clientDraws := rfl

end Sys2Proof.Machine
end

