-- ==== Sys2Proof/Laws/Codec.lean ====
section
/-! SUPPORT. Laws of the frame format, the decoder's helpers, and the codec operations: one statement of everything each
shared operation can do. -/

namespace Sys2Proof

@[simp] theorem length_frameHead (k : Config) (c : Byte) (data : List Byte) :
    (frameHead k c data).length = 4 + data.length := by
  simp [frameHead]; omega

@[simp] theorem length_encodeFrame (k : Config) (c : Byte) (data : List Byte) :
    (encodeFrame k c data).length = 7 + data.length := by
  simp [encodeFrame]; omega

/-- A frame field by field (R80). -/
theorem encodeFrame_eq (k : Config) (c : Byte) (data : List Byte) :
    encodeFrame k c data =
      k.sop :: k.ver :: c :: BitVec.ofNat 8 data.length ::
        (data ++ [lo8 (k.ck (frameHead k c data)), hi8 (k.ck (frameHead k c data)), k.eop]) := by
  simp [encodeFrame, frameHead]

theorem toNat_ofNat_length {data : List Byte} (h : data.length ≤ 255) :
    (BitVec.ofNat 8 data.length).toNat = data.length := by
  simp only [BitVec.toNat_ofNat]; omega

/-- `le16` of the two halves is the whole (R82). -/
@[simp] theorem Machine.le16_lo8_hi8 (v : Half) : Machine.le16 (lo8 v) (hi8 v) = v := by
  apply BitVec.eq_of_toNat_eq
  have := v.isLt
  simp only [Machine.le16, lo8, hi8, BitVec.toNat_ofNat]
  omega

theorem Machine.le16_injective {a b c d : Byte} (h : Machine.le16 a b = Machine.le16 c d) : a = c ∧ b = d := by
  have h' := congrArg BitVec.toNat h
  simp only [Machine.le16, BitVec.toNat_ofNat] at h'
  have := a.isLt
  have := b.isLt
  have := c.isLt
  have := d.isLt
  exact ⟨BitVec.eq_of_toNat_eq (by omega), BitVec.eq_of_toNat_eq (by omega)⟩

/-- The command codes are pairwise distinct (R7). -/
theorem Config.commandOf_injective (k : Config) {p q : Query} (h : k.commandOf p = k.commandOf q) : p = q := by
  have hd := k.codes_distinct
  simp only [List.nodup_cons, List.mem_cons, not_or, List.not_mem_nil, not_false_eq_true] at hd
  cases p <;> cases q <;> simp_all [Config.commandOf]

theorem Config.commandOf_ne_slaveError (k : Config) (q : Query) : k.commandOf q ≠ k.cmdSlaveError := by
  have hd := k.codes_distinct
  simp only [List.nodup_cons, List.mem_cons, not_or, List.not_mem_nil, not_false_eq_true] at hd
  cases q <;> simp_all [Config.commandOf]

/-- A command byte selects a query exactly when it is the query's code (R85). -/
theorem Config.commandOf_of_queryOf {k : Config} {c : Byte} {q : Query} (h : k.queryOf c = some q) :
    c = k.commandOf q := by
  unfold Config.queryOf at h
  repeat' split at h
  all_goals first
    | (cases h; assumption)
    | cases h

@[simp] theorem Config.queryOf_commandOf (k : Config) (q : Query) : k.queryOf (k.commandOf q) = some q := by
  cases hq : k.queryOf (k.commandOf q) with
  | some p => rw [k.commandOf_injective (Config.commandOf_of_queryOf hq)]
  | none =>
    exfalso
    unfold Config.queryOf at hq
    cases q <;> simp only [Config.commandOf, if_true] at hq
    all_goals repeat' split at hq
    all_goals simp at hq

@[simp] theorem Config.queryOf_slaveError (k : Config) : k.queryOf k.cmdSlaveError = none := by
  cases hq : k.queryOf k.cmdSlaveError with
  | none => rfl
  | some q => exact absurd (Config.commandOf_of_queryOf hq).symm (k.commandOf_ne_slaveError q)

theorem Config.queryOf_eq_none {k : Config} {c : Byte} (h : ∀ q, c ≠ k.commandOf q) : k.queryOf c = none := by
  cases hq : k.queryOf c with
  | none => rfl
  | some q => exact absurd (Config.commandOf_of_queryOf hq) (h q)

/-- Decoding a frame's bytes, its length byte in range and all its bytes there. -/
theorem decode_frame (k : Config) (s v c len : Byte) (rest : List Byte) (hl : len.toNat ≤ 251)
    (hr : len.toNat + 3 ≤ rest.length) :
    decode k (s :: v :: c :: len :: rest) = decodePacket k c (rest.take len.toNat) := by
  simp only [decode]
  rw [if_neg (by simp only [maxData]; omega), if_neg (by simp only [checksumSize, eopSize]; omega)]

/-- A frame of at most 251 data bytes decodes by its command and data. -/
theorem decode_encodeFrame (k : Config) (c : Byte) (data : List Byte) (h : data.length ≤ 251) :
    decode k (encodeFrame k c data) = decodePacket k c data := by
  rw [encodeFrame_eq, decode_frame, toNat_ofNat_length (by omega), List.take_left]
  · rw [toNat_ofNat_length (by omega)]; exact h
  · rw [toNat_ofNat_length (by omega)]; simp

end Sys2Proof

namespace Sys2Proof.Machine

@[simp] theorem length_requestData (s : State) : s.requestData.length = s.reqLen.toNat := by
  simp [State.requestData]

/-- The bytes of a buffer that holds a frame and zeros, position by position. -/
theorem read_frameBuffer {bs : List Byte} (h : bs.length ≤ rxDepth) (a : Nat) :
    Memory.read (Memory.writeBytes [] 0 bs) a = (bs[a]?).getD 0 := by
  rw [Memory.read_writeBytes (d := rxDepth) rfl (by omega)]
  simp

theorem readBytes_frameBuffer {bs : List Byte} (h : bs.length ≤ rxDepth) {a n : Nat} (hn : a + n ≤ bs.length) :
    Memory.readBytes (Memory.writeBytes [] 0 bs) a n = (bs.drop a).take n := by
  apply List.ext_getElem?
  intro i
  rw [Memory.getElem?_readBytes, read_frameBuffer h, List.getElem?_take, List.getElem?_drop]
  split
  · rw [List.getElem?_eq_getElem (by omega)]; rfl
  · rfl

/-- The checks without the dead second step (R117): what `checkFrame` answers and when. -/
theorem checkFrame_eq (k : Config) (b : Memory) :
    checkFrame k b =
      if Memory.read b 0 ≠ k.sop ∨ Memory.read b 1 ≠ k.ver then some .invalidStartMarker
      else if receivedEndMarker b ≠ k.eop then some .invalidEndMarker
      else if transmittedChecksum b ≠ k.ck (coveredBytes b) then some .invalidChecksum
      else none := by
  unfold checkFrame
  by_cases h : Memory.read b 0 ≠ k.sop ∨ Memory.read b 1 ≠ k.ver
  · rw [if_pos h, if_pos h]
  · rw [if_neg h, if_neg h, if_neg (fun h1 => h (Or.inr h1))]

/-- A failing check is one of three (R115). -/
theorem checkFrame_some {k : Config} {b : Memory} {e : Status} (h : checkFrame k b = some e) :
    e = .invalidStartMarker ∨ e = .invalidEndMarker ∨ e = .invalidChecksum := by
  rw [checkFrame_eq] at h
  repeat' split at h
  all_goals simp_all

theorem guardPath_rspData (s : State) :
    s.guardPath.rspData = Memory.ofFn (fun i => Config.freeByte s.draws (2 + i)) maxData := by
  simp only [State.guardPath]

/-- Everything DECODE can do (R115 to R122): a failing check zeroes the outputs, a frame in range is accepted, a longer one
takes the guard path. -/
theorem decodeResponse_cases (k : Config) (s : State) :
    (∃ e, checkFrame k s.rxbuf = some e ∧ s.decodeResponse k = { s.zeroResponse with err := e }) ∨
    (checkFrame k s.rxbuf = none ∧ lengthByte s.rxbuf ≤ 251 ∧ s.decodeResponse k = s.acceptFrame k) ∨
    (checkFrame k s.rxbuf = none ∧ 251 < lengthByte s.rxbuf ∧ s.decodeResponse k = s.guardPath) := by
  unfold State.decodeResponse
  cases hc : checkFrame k s.rxbuf with
  | some e => exact .inl ⟨e, rfl, rfl⟩
  | none =>
    by_cases hl : lengthByte s.rxbuf ≤ maxData
    · exact .inr (.inl ⟨rfl, hl, by simp only [if_pos hl]⟩)
    · exact .inr (.inr ⟨rfl, Nat.lt_of_not_le hl, by simp only [if_neg hl]⟩)

/-- DECODE's frame: it writes `RSP_*` and `ERR`, and counts a draw on the guard path. -/
theorem decodeResponse_frame (k : Config) (s : State) :
    s.decodeResponse k =
      { s with
        rspCmd := (s.decodeResponse k).rspCmd, rspLen := (s.decodeResponse k).rspLen
        rspData := (s.decodeResponse k).rspData, err := (s.decodeResponse k).err
        draws := (s.decodeResponse k).draws } := by
  rcases decodeResponse_cases k s with ⟨e, -, h⟩ | ⟨-, -, h⟩ | ⟨-, -, h⟩ <;> rw [h] <;> rfl

/-- DECODE's verdicts: a framing error with zero outputs, or one of the two codes of a valid frame. -/
theorem decodeResponse_err (k : Config) (s : State) :
    ((∃ e, checkFrame k s.rxbuf = some e ∧ (s.decodeResponse k).err = e) ∧ (s.decodeResponse k).rspCmd = 0 ∧
      (s.decodeResponse k).rspLen = 0 ∧ (s.decodeResponse k).rspData = []) ∨
    (checkFrame k s.rxbuf = none ∧
      ((s.decodeResponse k).err = .noError ∨ (s.decodeResponse k).err = .slaveReportedError)) := by
  rcases decodeResponse_cases k s with ⟨e, hc, h⟩ | ⟨hc, -, h⟩ | ⟨hc, -, h⟩ <;> rw [h]
  · exact .inl ⟨⟨e, hc, rfl⟩, rfl, rfl, rfl⟩
  · refine .inr ⟨hc, ?_⟩
    simp only [State.acceptFrame, statusOfCommand]
    split <;> simp
  · refine .inr ⟨hc, ?_⟩
    simp only [State.guardPath]
    split <;> simp

/-- DECODE's result depends on `RXBUF`, on the old `RSP_DATA` and on the number of the draw alone (R115, R130). -/
theorem decodeResponse_congr (k : Config) {s t : State} (hb : s.rxbuf = t.rxbuf) (hd : s.rspData = t.rspData)
    (hn : s.draws = t.draws) :
    (s.decodeResponse k).err = (t.decodeResponse k).err ∧ (s.decodeResponse k).rspCmd = (t.decodeResponse k).rspCmd ∧
      (s.decodeResponse k).rspLen = (t.decodeResponse k).rspLen ∧
      (s.decodeResponse k).rspData = (t.decodeResponse k).rspData := by
  unfold State.decodeResponse
  rw [hb]
  cases checkFrame k t.rxbuf with
  | some e => exact ⟨rfl, rfl, rfl, rfl⟩
  | none =>
    by_cases hl : lengthByte t.rxbuf ≤ maxData
    · simp only [if_pos hl, State.acceptFrame, hb, hd, and_self]
    · simp only [if_neg hl, State.guardPath, hn, and_self]

/-- DECODE keeps the canonical form of `RSP_DATA`. -/
theorem decodeResponse_wf (k : Config) (s : State) (h : Memory.wf maxData s.rspData = true) :
    Memory.wf maxData (s.decodeResponse k).rspData = true := by
  rcases decodeResponse_cases k s with ⟨e, -, hd⟩ | ⟨-, hl, hd⟩ | ⟨-, -, hd⟩ <;> rw [hd]
  · rfl
  · exact Memory.wf_writeBytes h (by simp [receivedData]; exact hl)
  · rw [guardPath_rspData]; exact Memory.wf_ofFn _ _

/-- A buffer that holds a frame passes every check, whatever its length byte (R120, R123). -/
theorem checkFrame_encodeFrame (k : Config) (c : Byte) (data : List Byte) (h : data.length ≤ 255) :
    checkFrame k (Memory.writeBytes [] 0 (encodeFrame k c data)) = none := by
  have hlen : (encodeFrame k c data).length ≤ rxDepth := by simp only [length_encodeFrame, rxDepth]; omega
  have hL : lengthByte (Memory.writeBytes [] 0 (encodeFrame k c data)) = data.length := by
    rw [lengthByte, read_frameBuffer hlen, encodeFrame_eq]
    exact toNat_ofNat_length h
  have hcov : coveredBytes (Memory.writeBytes [] 0 (encodeFrame k c data)) = frameHead k c data := by
    rw [coveredBytes, hL, readBytes_frameBuffer hlen (by simp only [length_encodeFrame, headerSize, sopSize, verSize, cmdSize, lenSize]; omega)]
    have : 4 + data.length = (frameHead k c data).length := by simp
    simp only [List.drop_zero, encodeFrame, List.append_assoc, headerSize, sopSize, verSize, cmdSize, lenSize]
    rw [this, List.take_left]
  rw [checkFrame_eq, if_neg, if_neg, if_neg]
  · rw [hcov, transmittedChecksum, hL, read_frameBuffer hlen, read_frameBuffer hlen, encodeFrame_eq]
    simp [show 1 + 1 + 1 + 1 + data.length = data.length + 4 by omega]
  · rw [receivedEndMarker, hL, read_frameBuffer hlen, encodeFrame_eq]
    simp [show 1 + 1 + 1 + 1 + data.length + 2 = data.length + 2 + 4 by omega]
  · rw [read_frameBuffer hlen, read_frameBuffer hlen, encodeFrame_eq]
    simp

/-- ... and its fields read back (R123). -/
theorem fields_encodeFrame (k : Config) (c : Byte) (data : List Byte) (h : data.length ≤ 255) :
    Memory.read (Memory.writeBytes [] 0 (encodeFrame k c data)) 2 = c ∧
    lengthByte (Memory.writeBytes [] 0 (encodeFrame k c data)) = data.length ∧
    receivedData (Memory.writeBytes [] 0 (encodeFrame k c data)) = data := by
  have hlen : (encodeFrame k c data).length ≤ rxDepth := by simp only [length_encodeFrame, rxDepth]; omega
  have hL : lengthByte (Memory.writeBytes [] 0 (encodeFrame k c data)) = data.length := by
    rw [lengthByte, read_frameBuffer hlen, encodeFrame_eq]
    exact toNat_ofNat_length h
  refine ⟨?_, hL, ?_⟩
  · rw [read_frameBuffer hlen, encodeFrame_eq]; rfl
  · rw [receivedData, hL, readBytes_frameBuffer hlen (by simp only [length_encodeFrame, headerSize, sopSize, verSize, cmdSize, lenSize]; omega), encodeFrame_eq]
    exact List.take_left

/-- DECODE of a buffer that holds a frame of at most 251 data bytes (R120, R121, R123). -/
theorem decodeResponse_of_frame (k : Config) {s : State} {c : Byte} {data : List Byte} (h : data.length ≤ 251)
    (hb : s.rxbuf = Memory.writeBytes [] 0 (encodeFrame k c data)) : s.decodeResponse k = s.acceptFrame k := by
  have hc := checkFrame_encodeFrame k c data (by omega)
  have hl := (fields_encodeFrame k c data (by omega)).2.1
  rw [← hb] at hc hl
  rcases decodeResponse_cases k s with ⟨e, h1, -⟩ | ⟨-, -, h2⟩ | ⟨-, h2, -⟩
  · rw [hc] at h1; cases h1
  · exact h2
  · omega

/-- The completion test, byte by byte (R125). -/
theorem iscomplete_iff (b : Memory) :
    iscomplete b = true ↔ Memory.read b 3 ≠ 0 ∧ Memory.read b ((Memory.read b 3).toNat + 6) ≠ 0 := by
  unfold iscomplete
  rw [Bool.and_eq_true, decide_eq_true_iff, decide_eq_true_iff]
  rfl

/-- The completion test on a buffer that holds the first bytes of a frame: only the whole of it, with data, completes
(R125, R126). -/
theorem iscomplete_frame_take (k : Config) (c : Byte) (data : List Byte) (h : data.length ≤ 251) (n : Nat) :
    iscomplete (Memory.writeBytes [] 0 ((encodeFrame k c data).take n)) = true ↔ 7 + data.length ≤ n ∧ data ≠ [] := by
  have hlen : ((encodeFrame k c data).take n).length ≤ rxDepth := by
    simp only [List.length_take, length_encodeFrame, rxDepth]; omega
  have h3 : Memory.read (Memory.writeBytes [] 0 ((encodeFrame k c data).take n)) 3 =
      if 3 < n then BitVec.ofNat 8 data.length else 0 := by
    rw [read_frameBuffer hlen, List.getElem?_take, encodeFrame_eq]
    split <;> rfl
  simp only [iscomplete, lengthByte, Bool.and_eq_true, decide_eq_true_eq, h3]
  by_cases hn : 3 < n
  · rw [if_pos hn, toNat_ofNat_length (by omega), read_frameBuffer hlen, List.getElem?_take, encodeFrame_eq]
    have hz : BitVec.ofNat 8 data.length ≠ 0 ↔ data ≠ [] := by
      rw [← List.length_pos_iff]
      constructor
      · intro hne
        rcases Nat.eq_zero_or_pos data.length with h0 | h0
        · rw [h0] at hne; exact absurd rfl hne
        · exact h0
      · intro hp he
        have := congrArg BitVec.toNat he
        rw [toNat_ofNat_length (by omega)] at this
        simp at this
        simp [this] at hp
    rw [hz]
    constructor
    · rintro ⟨hne, hr⟩
      refine ⟨?_, hne⟩
      by_cases hlt : data.length + completeBase < n
      · simp only [completeBase, headerSize, sopSize, verSize, cmdSize, lenSize, checksumSize] at hlt; omega
      · rw [if_neg hlt] at hr; exact absurd rfl hr
    · rintro ⟨hle, hne⟩
      refine ⟨hne, ?_⟩
      rw [if_pos (by simp only [completeBase, headerSize, sopSize, verSize, cmdSize, lenSize, checksumSize]; omega)]
      simpa [show data.length + (1 + 1 + 1 + 1 + 2) = data.length + 2 + 4 by omega] using k.eop_ne_zero
  · rw [if_neg hn]
    simp; omega

end Sys2Proof.Machine
end

