-- ==== Sys2Proof/Laws/PerInstr.lean ====
section
/-! SUPPORT. Statements made per instruction, one lemma for each constructor. -/

namespace Sys2Proof.Laws.EncodeLength

/-- How many bytes an instruction's words have: an op select is one byte (R95), a frame `7 + n` with its `n` data bytes
(R80), and no frame the encoding admits is longer than `TXBUF` (R29). -/
def Statement (i : Instr) : Prop :=
  i.encodable = true → ∀ k : Config,
    (i ∈ [Instr.execute, .encode, .decode, .iscomplete] → (encode k i).length = 1) ∧
    (i ∉ [Instr.execute, .encode, .decode, .iscomplete] →
      7 ≤ (encode k i).length ∧ (encode k i).length ≤ txDepth ∧
      (encode k i)[3]? = some (BitVec.ofNat 8 ((encode k i).length - 7)))

/-- Every query's frame. -/
theorem of_query {i : Instr} {q : Query} {x : Option Byte} (hi : ∀ k, encode k i = encodeQuery k q x)
    (hn : i ∉ [Instr.execute, .encode, .decode, .iscomplete]) : Statement i := by
  intro _ k
  refine ⟨fun h => absurd h hn, fun _ => ?_⟩
  rw [hi, encodeQuery]
  refine ⟨?_, ?_, ?_⟩
  · rw [length_encodeFrame]; omega
  · rw [length_encodeFrame]; cases x <;> simp [txDepth]
  · rw [length_encodeFrame, Nat.add_sub_cancel_left, encodeFrame_eq]; rfl

theorem execute : Statement .execute := fun _ _ => ⟨fun _ => rfl, fun h => absurd (by decide) h⟩
theorem encode : Statement .encode := fun _ _ => ⟨fun _ => rfl, fun h => absurd (by decide) h⟩
theorem decode : Statement .decode := fun _ _ => ⟨fun _ => rfl, fun h => absurd (by decide) h⟩
theorem iscomplete : Statement .iscomplete := fun _ _ => ⟨fun _ => rfl, fun h => absurd (by decide) h⟩
theorem getModelName (x : Option Byte) : Statement (.getModelName x) := of_query (fun _ => rfl) (by simp)
theorem getProductName (x : Option Byte) : Statement (.getProductName x) := of_query (fun _ => rfl) (by simp)
theorem getFirmwareVersion (x : Option Byte) : Statement (.getFirmwareVersion x) := of_query (fun _ => rfl) (by simp)
theorem getSerialNumber (x : Option Byte) : Statement (.getSerialNumber x) := of_query (fun _ => rfl) (by simp)
theorem getRuntime (x : Option Byte) : Statement (.getRuntime x) := of_query (fun _ => rfl) (by simp)
theorem getProductionDate (x : Option Byte) : Statement (.getProductionDate x) := of_query (fun _ => rfl) (by simp)
theorem getSensorData (x : Option Byte) : Statement (.getSensorData x) := of_query (fun _ => rfl) (by simp)
theorem getSensorTemperature (x : Option Byte) : Statement (.getSensorTemperature x) :=
  of_query (fun _ => rfl) (by simp)
theorem getSensorDataFormat (x : Option Byte) : Statement (.getSensorDataFormat x) :=
  of_query (fun _ => rfl) (by simp)
theorem getSensorName (x : Option Byte) : Statement (.getSensorName x) := of_query (fun _ => rfl) (by simp)
theorem slaveError (data : List Byte) : Statement (.slaveError data) := by
  intro h k
  have hl : data.length ≤ 251 := by simpa [Instr.encodable] using h
  refine ⟨fun hm => absurd hm (by simp), fun _ => ?_⟩
  show 7 ≤ (encodeFrame k k.cmdSlaveError data).length ∧ (encodeFrame k k.cmdSlaveError data).length ≤ txDepth ∧ _
  refine ⟨?_, ?_, ?_⟩
  · rw [length_encodeFrame]; omega
  · rw [length_encodeFrame, txDepth]; omega
  · show (encodeFrame k k.cmdSlaveError data)[3]? = some (BitVec.ofNat 8 ((encodeFrame k k.cmdSlaveError data).length - 7))
    rw [length_encodeFrame, Nat.add_sub_cancel_left, encodeFrame_eq]
    rfl

end Sys2Proof.Laws.EncodeLength
end

