-- ==== Sys2Proof/Laws/Step.lean ====
section
/-! SUPPORT. What a step can do, said once: the client's part of a transaction's end and its frame, the FSM step by cases,
deposits, and every step's effect as one of a list. -/

namespace Sys2Proof.Machine

/-! ## The client at a transaction's end -/

/-- `deliver` writes the client's fields only. -/
theorem deliver_frame (k : Config) (s : State) :
    s.deliver k =
      { s with
        dataFormat := (s.deliver k).dataFormat, dataFormatFetched := (s.deliver k).dataFormatFetched
        sensorData := (s.deliver k).sensorData, query := (s.deliver k).query, result := (s.deliver k).result
        clientDraws := (s.deliver k).clientDraws } := by
  unfold State.deliver
  cases hq : s.query with
  | none => cases s; rfl
  | some q =>
    simp only
    generalize s.typedResult k q = v
    cases v <;> simp only [State.storeResult] <;> (try split) <;> rfl

@[simp] theorem State.deliver_reqCmd (k : Config) (s : State) : (s.deliver k).reqCmd = s.reqCmd := by
  rw [deliver_frame]
@[simp] theorem State.deliver_reqLen (k : Config) (s : State) : (s.deliver k).reqLen = s.reqLen := by
  rw [deliver_frame]
@[simp] theorem State.deliver_reqData (k : Config) (s : State) : (s.deliver k).reqData = s.reqData := by
  rw [deliver_frame]
@[simp] theorem State.deliver_rspCmd (k : Config) (s : State) : (s.deliver k).rspCmd = s.rspCmd := by
  rw [deliver_frame]
@[simp] theorem State.deliver_rspLen (k : Config) (s : State) : (s.deliver k).rspLen = s.rspLen := by
  rw [deliver_frame]
@[simp] theorem State.deliver_rspData (k : Config) (s : State) : (s.deliver k).rspData = s.rspData := by
  rw [deliver_frame]
@[simp] theorem State.deliver_err (k : Config) (s : State) : (s.deliver k).err = s.err := by
  rw [deliver_frame]
@[simp] theorem State.deliver_tstate (k : Config) (s : State) : (s.deliver k).tstate = s.tstate := by
  rw [deliver_frame]
@[simp] theorem State.deliver_opsel (k : Config) (s : State) : (s.deliver k).opsel = s.opsel := by
  rw [deliver_frame]
@[simp] theorem State.deliver_done (k : Config) (s : State) : (s.deliver k).done = s.done := by
  rw [deliver_frame]
@[simp] theorem State.deliver_rxArmed (k : Config) (s : State) : (s.deliver k).rxArmed = s.rxArmed := by
  rw [deliver_frame]
@[simp] theorem State.deliver_complete (k : Config) (s : State) : (s.deliver k).complete = s.complete := by
  rw [deliver_frame]
@[simp] theorem State.deliver_txbuf (k : Config) (s : State) : (s.deliver k).txbuf = s.txbuf := by
  rw [deliver_frame]
@[simp] theorem State.deliver_txCount (k : Config) (s : State) : (s.deliver k).txCount = s.txCount := by
  rw [deliver_frame]
@[simp] theorem State.deliver_rxbuf (k : Config) (s : State) : (s.deliver k).rxbuf = s.rxbuf := by
  rw [deliver_frame]
@[simp] theorem State.deliver_t0 (k : Config) (s : State) : (s.deliver k).t0 = s.t0 := by
  rw [deliver_frame]
@[simp] theorem State.deliver_now (k : Config) (s : State) : (s.deliver k).now = s.now := by
  rw [deliver_frame]
@[simp] theorem State.deliver_rxWr (k : Config) (s : State) : (s.deliver k).rxWr = s.rxWr := by
  rw [deliver_frame]
@[simp] theorem State.deliver_waitFail (k : Config) (s : State) : (s.deliver k).waitFail = s.waitFail := by
  rw [deliver_frame]
@[simp] theorem State.deliver_outbound (k : Config) (s : State) : (s.deliver k).outbound = s.outbound := by
  rw [deliver_frame]
@[simp] theorem State.deliver_inbound (k : Config) (s : State) : (s.deliver k).inbound = s.inbound := by
  rw [deliver_frame]
@[simp] theorem State.deliver_trace (k : Config) (s : State) : (s.deliver k).trace = s.trace := by
  rw [deliver_frame]
@[simp] theorem State.deliver_inputs (k : Config) (s : State) : (s.deliver k).inputs = s.inputs := by
  rw [deliver_frame]
@[simp] theorem State.deliver_hostReadData (k : Config) (s : State) : (s.deliver k).hostReadData = s.hostReadData := by
  rw [deliver_frame]
@[simp] theorem State.deliver_draws (k : Config) (s : State) : (s.deliver k).draws = s.draws := by
  rw [deliver_frame]

/-- After `deliver` no query is in flight. -/
@[simp] theorem State.deliver_query (k : Config) (s : State) : (s.deliver k).query = none := by
  unfold State.deliver
  cases hq : s.query with
  | none => exact hq
  | some q => rfl

/-- What a query returns (R190). -/
theorem deliver_result {k : Config} {s : State} {q : Query} (h : s.query = some q) :
    (s.deliver k).result = some
      { query := q, value := s.typedResult k q, status := s.err
        slaveCode := if s.err = .slaveReportedError then s.secondaryCode k else none } := by
  unfold State.deliver
  simp only [h]

/-- With no query in flight `deliver` does nothing. -/
theorem deliver_of_none {k : Config} {s : State} (h : s.query = none) : s.deliver k = s := by
  unfold State.deliver
  simp only [h]

/-- How `deliver` touches the cached data format (R207, log 18). -/
theorem deliver_dataFormat (k : Config) (s : State) :
    (s.dataFormatFetched = true →
      (s.deliver k).dataFormat = s.dataFormat ∧ (s.deliver k).dataFormatFetched = true) ∧
    ((s.deliver k).dataFormat ≠ s.dataFormat → s.query = some .sensorDataFormat) := by
  unfold State.deliver
  cases hq : s.query with
  | none => exact ⟨fun h => ⟨rfl, h⟩, fun h => absurd rfl h⟩
  | some q =>
    have hty : ∀ f, s.typedResult k q = .dataFormat f → q = .sensorDataFormat := by
      intro f hf
      unfold State.typedResult at hf
      cases q <;> simp_all [fallback, freeResult, convert, stringOf, runtimeOf, measurementOf, temperatureOf]
      all_goals (repeat' split at hf) <;> simp_all [Option.getD]
    simp only
    generalize s.typedResult k q = v at hty ⊢
    cases v with
    | dataFormat f =>
      rw [hty f rfl]
      simp only [State.storeResult]
      refine ⟨fun h => ?_, fun _ => trivial⟩
      rw [if_pos h]
      exact ⟨rfl, h⟩
    | _ => exact ⟨fun h => ⟨rfl, h⟩, fun h => absurd rfl h⟩

/-- A measurement query's typed result is a measurement (R197, R204, R206). -/
theorem typedResult_sensorData (k : Config) (s : State) : ∃ d, s.typedResult k .sensorData = .measurement d := by
  unfold State.typedResult
  split
  · exact ⟨_, rfl⟩
  split
  · exact ⟨_, rfl⟩
  simp only [convert]
  unfold measurementOf
  split <;> exact ⟨_, rfl⟩

/-- A data-format query's typed result is a data format (R199, R204, R206). -/
theorem typedResult_sensorDataFormat (k : Config) (s : State) : ∃ f, s.typedResult k .sensorDataFormat = .dataFormat f := by
  unfold State.typedResult
  split
  · exact ⟨_, rfl⟩
  split
  · exact ⟨_, rfl⟩
  simp only [convert]
  unfold dataFormatOf
  split <;> exact ⟨_, rfl⟩

/-- A query's typed result after an error (R204). -/
theorem typedResult_of_error {k : Config} {s : State} (h : s.err ≠ .noError) (q : Query) :
    s.typedResult k q = fallback q := by
  unfold State.typedResult
  rw [if_pos h]

/-- A query's typed result after a success, where its conversion is defined (R190). -/
theorem typedResult_of_convert {k : Config} {s : State} {q : Query} {v : TypedResult} (h : s.err = .noError)
    (hl : s.rspLen.toNat ≤ 251) (hv : convert q (s.payload (k.hasIndex q)) = some v) : s.typedResult k q = v := by
  unfold State.typedResult
  rw [if_neg (fun h' => h' h), if_neg (Nat.not_lt.2 hl), hv]
  rfl

/-- How `deliver` touches `SENSOR_DATA`: a measurement query's returned value stands there (R35, R197, log 22). -/
theorem deliver_sensorData (k : Config) (s : State) :
    (s.query = some .sensorData →
      ∃ d, s.typedResult k .sensorData = .measurement d ∧ (s.deliver k).sensorData = some d) ∧
    (s.query ≠ some .sensorData → (s.deliver k).sensorData = s.sensorData) := by
  refine ⟨fun hq => ?_, fun hq => ?_⟩
  · obtain ⟨d, hd⟩ := typedResult_sensorData k s
    refine ⟨d, hd, ?_⟩
    unfold State.deliver
    simp only [hq, hd]
    rfl
  · unfold State.deliver
    cases hs : s.query with
    | none => rfl
    | some q =>
      have hty : ∀ d, s.typedResult k q ≠ .measurement d := by
        intro d hd
        have : q ≠ .sensorData := fun h => hq (by rw [hs, h])
        unfold State.typedResult at hd
        cases q <;> simp_all [fallback, freeResult, convert, stringOf, runtimeOf, dataFormatOf, temperatureOf]
        all_goals (repeat' split at hd) <;> simp_all [Option.getD]
      simp only
      generalize s.typedResult k q = v at hty ⊢
      cases v with
      | measurement d => exact absurd rfl (hty d)
      | dataFormat f =>
        simp only [State.storeResult]
        split <;> rfl
      | _ => rfl

/-- A data-format query that ends before one has succeeded leaves its value in `DATA_FORMAT`; success marks it fetched (R199,
R207, log 18). -/
theorem deliver_fetches {k : Config} {s : State} (hq : s.query = some .sensorDataFormat)
    (hf : s.dataFormatFetched = false) :
    s.typedResult k .sensorDataFormat = .dataFormat (s.deliver k).dataFormat ∧
      (s.deliver k).dataFormatFetched = decide (s.err = .noError) := by
  obtain ⟨f, h⟩ := typedResult_sensorDataFormat k s
  unfold State.deliver
  simp only [hq, h, State.storeResult, hf]
  exact ⟨rfl, rfl⟩

/-! ## Deposits -/

/-- A deposit writes `RXBUF` and `RX_WR` only (R33). -/
theorem depositByte_frame (s : State) (v : Byte) :
    s.depositByte v = { s with rxbuf := (s.depositByte v).rxbuf, rxWr := (s.depositByte v).rxWr } := by
  unfold State.depositByte
  split <;> rfl

theorem depositByte_unarmed {s : State} (h : s.rxArmed = false) (v : Byte) : s.depositByte v = s := by
  simp [State.depositByte, h]

/-- Deposits write `RXBUF` and `RX_WR` only. -/
theorem depositBytes_frame (s : State) (bs : List Byte) :
    s.depositBytes bs = { s with rxbuf := (s.depositBytes bs).rxbuf, rxWr := (s.depositBytes bs).rxWr } := by
  induction bs generalizing s with
  | nil => rfl
  | cons b bs ih =>
    rw [State.depositBytes, ih, depositByte_frame]

theorem depositBytes_unarmed {s : State} (h : s.rxArmed = false) (bs : List Byte) : s.depositBytes bs = s := by
  induction bs generalizing s with
  | nil => rfl
  | cons b bs ih => rw [State.depositBytes, depositByte_unarmed h, ih h]

/-- Deposits that all fit write the sequence at the position (R33). -/
theorem depositBytes_armed {s : State} (h : s.rxArmed = true) (bs : List Byte) (hb : s.rxWr + bs.length ≤ rxDepth) :
    s.depositBytes bs =
      { s with rxbuf := Memory.writeBytes s.rxbuf s.rxWr bs, rxWr := s.rxWr + bs.length } := by
  induction bs generalizing s with
  | nil => rfl
  | cons b bs ih =>
    simp only [List.length_cons] at hb
    have hd : s.depositByte b = { s with rxbuf := Memory.write s.rxbuf s.rxWr b, rxWr := s.rxWr + 1 } := by
      unfold State.depositByte
      rw [if_pos h, if_pos (by omega)]
    rw [State.depositBytes, hd, ih (by exact h) (by simp only; omega)]
    simp only [Memory.writeBytes, List.length_cons, Nat.add_assoc, Nat.add_comm 1]

/-- A property that one deposit keeps, all deposits keep. -/
theorem depositBytes_induction {P : State → Prop} (hp : ∀ s v, P s → P (s.depositByte v)) {s : State} (h : P s)
    (bs : List Byte) : P (s.depositBytes bs) := by
  induction bs generalizing s with
  | nil => exact h
  | cons b bs ih => exact ih (hp s b h)

/-- Deposits land at `RX_WR` and above: every byte below keeps its value (R33). -/
theorem depositBytes_below {s : State} (hw : Memory.wf rxDepth s.rxbuf = true) (bs : List Byte) {a : Nat}
    (ha : a < s.rxWr) : Memory.read (s.depositBytes bs).rxbuf a = Memory.read s.rxbuf a := by
  induction bs generalizing s with
  | nil => rfl
  | cons v bs ih =>
    unfold State.depositBytes State.depositByte
    by_cases h : s.rxArmed = true
    · rw [if_pos h]
      by_cases hd : s.rxWr < rxDepth
      · simp only [if_pos hd]
        refine (ih (Memory.wf_write hw v hd) (Nat.lt_succ_of_lt ha)).trans ?_
        rw [Memory.read_write hw, if_neg (Nat.ne_of_lt ha)]
      · simp only [if_neg hd]
        exact ih hw (Nat.lt_succ_of_lt ha)
    · rw [if_neg h]
      exact ih hw ha

/-- `depositNext` consumes one inbound byte and deposits it (R33). -/
theorem depositNext_cases (s : State) :
    (s.inbound = [] ∧ s.depositNext = s) ∨
    (∃ v q, s.inbound = v :: q ∧ s.depositNext = { s with inbound := q }.depositByte v) := by
  unfold State.depositNext
  cases h : s.inbound with
  | nil => exact .inl ⟨rfl, rfl⟩
  | cons v q => exact .inr ⟨v, q, rfl, rfl⟩

/-! ## The FSM -/

/-- The exit a WAIT step takes is enabled, and the picked one if that is (R156). -/
theorem chosenExit_some {k : Config} {pick e : WaitExit} {s : State} (h : s.chosenExit k pick = some e) :
    s.exitEnabled k e = true ∧ (s.exitEnabled k pick = true → e = pick) := by
  unfold State.chosenExit at h
  refine ⟨List.find?_some h, fun hp => ?_⟩
  simp only [List.find?_cons, hp] at h
  exact (Option.some.inj h).symm

/-- No exit is taken exactly when none is enabled (R156). -/
theorem chosenExit_none {k : Config} {pick : WaitExit} {s : State} :
    s.chosenExit k pick = none ↔ ∀ e, s.exitEnabled k e = false := by
  unfold State.chosenExit
  rw [List.find?_eq_none]
  constructor
  · intro h e
    have := h e (by cases e <;> simp)
    simpa using this
  · intro h e _
    simp [h e]

/-- A failed SEND, before the client learns of it (R155). -/
def State.sendFailed (k : Config) (s : State) : State :=
  ((((s.encodeRequest k).record (.tx (s.encodeRequest k).txFrame (s.encodeRequest k).txCount false)).sendBytes
    ((s.encodeRequest k).txFrame.take (Config.freeNat s.draws))).draw.abortReceive).failureExit .transmitFailure

/-- A successful SEND (R154). -/
def State.sendDone (k : Config) (s : State) : State :=
  { ((s.encodeRequest k).record (.tx (s.encodeRequest k).txFrame (s.encodeRequest k).txCount true)).sendBytes
      (s.encodeRequest k).txFrame with t0 := s.now, tstate := .wait }

/-- ENCODE writes `TXBUF` and `TX_COUNT` only (R110). -/
theorem encodeRequest_frame (k : Config) (s : State) :
    s.encodeRequest k = { s with txbuf := (s.encodeRequest k).txbuf, txCount := (s.encodeRequest k).txCount } := rfl

/-- `TX_COUNT` after ENCODE of an admitted request (R110). -/
theorem encodeRequest_count (k : Config) {s : State} (hl : s.reqLen.toNat ≤ 251) :
    (s.encodeRequest k).txCount.toNat = 7 + s.reqLen.toNat := by
  simp only [State.encodeRequest, BitVec.toNat_ofNat, length_encodeFrame, length_requestData]
  omega

/-- What ENCODE leaves in `TXBUF` is the request's frame (R64, R110). -/
theorem encodeRequest_txFrame (k : Config) {s : State} (hl : s.reqLen.toNat ≤ 251)
    (hw : Memory.wf txDepth s.txbuf = true) : (s.encodeRequest k).txFrame = encodeFrame k s.reqCmd s.requestData := by
  have hn : (s.encodeRequest k).txCount.toNat = (encodeFrame k s.reqCmd s.requestData).length := by
    rw [encodeRequest_count k hl, length_encodeFrame, length_requestData]
  unfold State.txFrame
  rw [hn]
  refine Memory.readBytes_writeBytes hw ?_
  simp only [length_encodeFrame, length_requestData, txDepth]
  omega

/-- ENCODE keeps the canonical form of `TXBUF`. -/
theorem encodeRequest_wf (k : Config) {s : State} (hl : s.reqLen.toNat ≤ 251)
    (hw : Memory.wf txDepth s.txbuf = true) : Memory.wf txDepth (s.encodeRequest k).txbuf = true := by
  refine Memory.wf_writeBytes hw ?_
  simp only [length_encodeFrame, length_requestData, txDepth]
  omega

/-- A successful SEND, field by field (R154). -/
theorem sendDone_frame (k : Config) (s : State) :
    s.sendDone k =
      { s with
        txbuf := (s.encodeRequest k).txbuf, txCount := (s.encodeRequest k).txCount, t0 := s.now, tstate := .wait
        trace := s.trace ++ [.tx (s.encodeRequest k).txFrame (s.encodeRequest k).txCount true]
        outbound := s.outbound ++ (s.encodeRequest k).txFrame } := by
  have e := encodeRequest_frame k s
  unfold State.sendDone
  generalize s.encodeRequest k = t at *
  generalize ha : t.txbuf = a at *
  generalize hb : t.txCount = b at *
  subst e
  rfl

/-- A failed SEND, field by field (R155). -/
theorem sendFailed_frame (k : Config) (s : State) :
    s.sendFailed k =
      { s with
        txbuf := (s.encodeRequest k).txbuf, txCount := (s.encodeRequest k).txCount, tstate := .idle, done := true
        err := .transmitFailure, rspCmd := 0, rspLen := 0, rspData := [], rxArmed := false, draws := s.draws + 1
        trace := s.trace ++ [.tx (s.encodeRequest k).txFrame (s.encodeRequest k).txCount false] ++ [.abort]
        outbound := s.outbound ++ (s.encodeRequest k).txFrame.take (Config.freeNat s.draws) } := by
  have e := encodeRequest_frame k s
  unfold State.sendFailed
  generalize s.encodeRequest k = t at *
  generalize ha : t.txbuf = a at *
  generalize hb : t.txCount = b at *
  subst e
  simp only [State.failureExit, State.zeroResponse, State.finish, State.abortReceive, State.draw, State.sendBytes,
    State.record]

/-- Everything one step of the block can do (R170). -/
inductive BlockStep (k : Config) (ok : Bool) (pick : WaitExit) (s : State) : State → Prop
  | idle : s.tstate = .idle → BlockStep k ok pick s s
  | armed : s.tstate = .arm → ok = true →
      BlockStep k ok pick s { (s.clearRx.record (.arm true)).armReceive with tstate := .send }
  | armFailed : s.tstate = .arm → ok = false →
      BlockStep k ok pick s ((s.clearRx.record (.arm false)).failureExit .armFailure)
  | sent : s.tstate = .send → ok = true → BlockStep k ok pick s (s.sendDone k)
  | sendFailed : s.tstate = .send → ok = false → BlockStep k ok pick s (s.sendFailed k)
  | waits : s.tstate = .wait → (∀ e, s.exitEnabled k e = false) → BlockStep k ok pick s s
  | ends (e : WaitExit) : s.tstate = .wait → s.exitEnabled k e = true → (s.exitEnabled k pick = true → e = pick) →
      BlockStep k ok pick s (s.takeExit k e)

theorem blockStep_cases (k : Config) (ok : Bool) (pick : WaitExit) (s : State) :
    BlockStep k ok pick s (s.blockStep k ok pick) := by
  unfold State.blockStep
  split
  · exact .idle ‹_›
  · cases ok with
    | true => exact .armed ‹_› rfl
    | false => exact .armFailed ‹_› rfl
  · cases ok with
    | true => exact .sent ‹_› rfl
    | false => exact .sendFailed ‹_› rfl
  · unfold State.waitStep
    split
    · rename_i e he
      exact .ends e ‹_› (chosenExit_some he).1 (chosenExit_some he).2
    · rename_i he
      exact .waits ‹_› (chosenExit_none.1 he)

/-- An exit of WAIT ends the transaction: idle, done, unarmed, one abort more (R157 to R159). -/
theorem takeExit_fields (k : Config) (s : State) (e : WaitExit) :
    (s.takeExit k e).tstate = .idle ∧ (s.takeExit k e).done = true ∧ (s.takeExit k e).rxArmed = false ∧
      (s.takeExit k e).trace = s.trace ++ [.abort] := by
  cases e
  · refine ⟨rfl, rfl, ?_, ?_⟩ <;> simp only [State.takeExit, State.hostDecode, State.finish] <;>
      rw [decodeResponse_frame] <;> rfl
  · exact ⟨rfl, rfl, rfl, rfl⟩
  · exact ⟨rfl, rfl, rfl, rfl⟩

/-- An exit of WAIT touches the trace, `RX_ARMED`, and DECODE's registers, `DONE` and `TSTATE`; nothing else but the model's
draw counter. -/
theorem takeExit_frame (k : Config) (s : State) (e : WaitExit) :
    s.takeExit k e =
      { s with
        trace := s.trace ++ [.abort], rxArmed := false, tstate := .idle, done := true, err := (s.takeExit k e).err
        rspCmd := (s.takeExit k e).rspCmd, rspLen := (s.takeExit k e).rspLen, rspData := (s.takeExit k e).rspData
        draws := (s.takeExit k e).draws } := by
  cases e
  · simp only [State.takeExit, State.hostDecode, State.finish]
    rw [decodeResponse_frame]
    rfl
  · rfl
  · rfl

/-- The FSM step is the block's step, followed by the client's part if that ended the transaction. -/
theorem fsmStep_cases (k : Config) (ok : Bool) (pick : WaitExit) (s : State) :
    (s.fsmStep k ok pick = s.blockStep k ok pick ∧ (s.tstate = .idle ∨ (s.blockStep k ok pick).tstate ≠ .idle)) ∨
    (s.fsmStep k ok pick = (s.blockStep k ok pick).deliver k ∧ s.tstate ≠ .idle ∧
      (s.blockStep k ok pick).tstate = .idle) := by
  unfold State.fsmStep
  by_cases h : s.tstate ≠ .idle ∧ (s.blockStep k ok pick).tstate = .idle
  · exact .inr ⟨by simp only [if_pos h], h⟩
  · refine .inl ⟨by simp only [if_neg h], ?_⟩
    by_cases hi : s.tstate = .idle
    · exact .inl hi
    · exact .inr (fun hb => h ⟨hi, hb⟩)

/-- Whatever the client does not own comes from the block's step. -/
theorem fsmStep_field {α : Type} (f : State → α) (k : Config) (hf : ∀ s : State, f (s.deliver k) = f s) (ok : Bool)
    (pick : WaitExit) (s : State) : f (s.fsmStep k ok pick) = f (s.blockStep k ok pick) := by
  rcases fsmStep_cases k ok pick s with ⟨h, -⟩ | ⟨h, -⟩ <;> rw [h]
  exact hf _

/-- In WAIT with the completion test true, an FSM step that picks completion aborts, decodes and lets the query return
(R157, R190). -/
theorem fsmStep_completion {k : Config} {s : State} (ok : Bool) (hs : s.tstate = .wait) (hc : iscomplete s.rxbuf = true) :
    s.fsmStep k ok .completion = (s.abortReceive.hostDecode k).deliver k := by
  have hb : s.blockStep k ok .completion = s.abortReceive.hostDecode k := by
    unfold State.blockStep State.waitStep State.chosenExit
    simp only [hs, List.find?_cons, State.exitEnabled, hc, State.takeExit]
  unfold State.fsmStep
  rw [hb]
  exact if_pos ⟨by rw [hs]; decide, rfl⟩

/-- A step whose next move is `fsm`. -/
theorem step_fsm {s : State} {ok : Bool} {pick : WaitExit} {rest : List Move} (h : s.inputs = .fsm ok pick :: rest) :
    step s = .next (({ s with inputs := rest } : State).fsmStep Config.session ok pick) := by
  unfold step
  rw [h]
  rfl

/-- The sensor's report: deposits, which touch the inbound stream, `RXBUF` and `RX_WR` only, and in WAIT one poll (R201). -/
theorem slaveReport_cases (k : Config) (s : State) (data : List Byte) :
    ∃ u : State, u = { s with inbound := [], rxbuf := u.rxbuf, rxWr := u.rxWr } ∧
      (s.rxArmed = false → u.rxbuf = s.rxbuf ∧ u.rxWr = s.rxWr) ∧
      ((s.tstate ≠ .wait ∧ s.slaveReport k data = u) ∨
        (s.tstate = .wait ∧
          s.slaveReport k data = u.draw.fsmStep k (Config.freeAnswer u.draws) (Config.freeExit u.draws))) := by
  have hf := depositBytes_frame { s with inbound := [] } (s.inbound ++ encodeFrame k k.cmdSlaveError data)
  have hu : s.rxArmed = false → _ := fun h =>
    depositBytes_unarmed (s := { s with inbound := [] }) h (s.inbound ++ encodeFrame k k.cmdSlaveError data)
  refine ⟨_, hf, fun h => by rw [hu h]; exact ⟨rfl, rfl⟩, ?_⟩
  have hr : s.slaveReport k data =
      (if (State.depositBytes { s with inbound := [] }
          (s.inbound ++ encodeFrame k k.cmdSlaveError data)).tstate = .wait then
        (State.depositBytes { s with inbound := [] } (s.inbound ++ encodeFrame k k.cmdSlaveError data)).fsmFree k
      else State.depositBytes { s with inbound := [] } (s.inbound ++ encodeFrame k k.cmdSlaveError data)) := rfl
  rw [hr]
  clear hr hu
  generalize State.depositBytes _ _ = u at *
  have ht : u.tstate = s.tstate := by rw [hf]
  rw [ht]
  by_cases hw : s.tstate = .wait
  · rw [if_pos hw]
    refine .inr ⟨hw, ?_⟩
    unfold State.fsmFree
    rw [ht, if_neg (by rw [hw]; decide)]
  · rw [if_neg hw]
    exact .inl ⟨hw, rfl⟩

/-- An FSM step touches `RXBUF` in step ARM only, which clears it (R31, R152). -/
theorem fsmStep_rxbuf (k : Config) (ok : Bool) (pick : WaitExit) (s : State) :
    (s.fsmStep k ok pick).rxbuf = if s.tstate = .arm then [] else s.rxbuf := by
  rw [fsmStep_field State.rxbuf k (State.deliver_rxbuf k)]
  have hb := blockStep_cases k ok pick s
  generalize s.blockStep k ok pick = t at *
  cases hb with
  | idle h => rw [h]; rfl
  | armed h => rw [h]; rfl
  | armFailed h => rw [h]; rfl
  | sent h => rw [h, sendDone_frame]; rfl
  | sendFailed h => rw [h, sendFailed_frame]; rfl
  | waits h => rw [h]; rfl
  | ends e h => rw [h, takeExit_frame]; rfl

/-- The sensor's report leaves in `RXBUF` what its deposits leave (R201, R33). -/
theorem slaveReport_rxbuf (k : Config) (s : State) (data : List Byte) :
    (s.slaveReport k data).rxbuf =
      (({ s with inbound := [] } : State).depositBytes (s.inbound ++ encodeFrame k k.cmdSlaveError data)).rxbuf := by
  have hr : s.slaveReport k data =
      (if (State.depositBytes { s with inbound := [] }
          (s.inbound ++ encodeFrame k k.cmdSlaveError data)).tstate = .wait then
        (State.depositBytes { s with inbound := [] } (s.inbound ++ encodeFrame k k.cmdSlaveError data)).fsmFree k
      else State.depositBytes { s with inbound := [] } (s.inbound ++ encodeFrame k k.cmdSlaveError data)) := rfl
  rw [hr]
  generalize State.depositBytes _ _ = u
  split
  · rename_i h
    unfold State.fsmFree
    rw [if_neg (by rw [h]; decide), fsmStep_rxbuf, if_neg (by show u.tstate ≠ _; rw [h]; decide)]
    rfl
  · rfl

/-! ## Every step -/

/-- What a step does to the state after its move was taken off the schedule. -/
inductive Effect (k : Config) (s : State) : State → Prop
  | nothing : Effect k s s
  | encode : s.tstate = .idle → Effect k s ((s.acceptStart .encode).hostEncode k)
  | decode : s.tstate = .idle → Effect k s ((s.acceptStart .decode).hostDecode k)
  | iscomplete : s.tstate = .idle → Effect k s (s.acceptStart .iscomplete).hostIscomplete
  | execute : s.tstate = .idle → Effect k s (s.acceptStart .execute).startExecute
  | launch (q : Query) (index : Byte) : s.tstate = .idle →
      Effect k s ((State.openQuery q ((s.acceptStart .execute).writeRequest k q index)).startExecute)
  | fsm (ok : Bool) (pick : WaitExit) : Effect k s (s.fsmStep k ok pick)
  | fsmFree : s.tstate ≠ .idle →
      Effect k s (s.draw.fsmStep k (Config.freeAnswer s.draws) (Config.freeExit s.draws))
  | report (data : List Byte) : Effect k s (s.slaveReport k data)
  | writeReqCmd (v : Byte) : s.tstate = .idle → Effect k s { s with reqCmd := v }
  | writeReqLen (v : Byte) : s.tstate = .idle → Effect k s { s with reqLen := v }
  | writeReqData (i : Nat) (v : Byte) : s.tstate = .idle → i < 251 →
      Effect k s { s with reqData := Memory.write s.reqData i v }
  | writeTx (i : Nat) (v : Byte) : s.tstate = .idle → i < 258 →
      Effect k s { s with txbuf := Memory.write s.txbuf i v }
  | writeRx (i : Nat) (v : Byte) : s.tstate = .idle → i < 262 →
      Effect k s { s with rxbuf := Memory.write s.rxbuf i v }
  | read (v : BitVec 9) (n : Nat) : Effect k s { s with hostReadData := v, draws := n }
  | slaveSend (v : Byte) : Effect k s { s with inbound := s.inbound ++ [v] }
  | deposit : Effect k s s.depositNext
  | waitFail (b : Bool) : Effect k s { s with waitFail := b }
  | clock (t : Nat) : s.now ≤ t → Effect k s { s with now := t }

/-- The client's fields are the same in both states, but for its draw counter (R4). -/
def SameClient (s t : State) : Prop :=
  t.dataFormat = s.dataFormat ∧ t.dataFormatFetched = s.dataFormatFetched ∧ t.sensorData = s.sensorData ∧
    t.query = s.query ∧ t.result = s.result

/-- All a step can do to the client's fields: nothing, the delivery of the query in flight, or a query's launch (R190, log
16). -/
inductive ClientStep (k : Config) (s : State) : State → Prop
  | same {t : State} : SameClient s t → ClientStep k s t
  | delivers (u : State) : SameClient s u → ClientStep k s (u.deliver k)
  | launches {t : State} (q : Query) : s.tstate = .idle → t.tstate = .arm → t.query = some q → t.result = none →
      t.sensorData = none → t.dataFormat = s.dataFormat → t.dataFormatFetched = s.dataFormatFetched → ClientStep k s t

/-- The block's step does not touch the client's fields (R4). -/
theorem blockStep_client (k : Config) (ok : Bool) (pick : WaitExit) (s : State) :
    SameClient s (s.blockStep k ok pick) := by
  have hb := blockStep_cases k ok pick s
  generalize s.blockStep k ok pick = t at *
  cases hb with
  | sent => rw [sendDone_frame]; exact ⟨rfl, rfl, rfl, rfl, rfl⟩
  | sendFailed => rw [sendFailed_frame]; exact ⟨rfl, rfl, rfl, rfl, rfl⟩
  | ends e => rw [takeExit_frame]; exact ⟨rfl, rfl, rfl, rfl, rfl⟩
  | _ => exact ⟨rfl, rfl, rfl, rfl, rfl⟩

/-- An FSM step and the client. -/
theorem fsmStep_client {k : Config} {s u : State} (h : SameClient s u) (ok : Bool) (pick : WaitExit) :
    ClientStep k s (u.fsmStep k ok pick) := by
  have hb := blockStep_client k ok pick u
  have hs : SameClient s (u.blockStep k ok pick) := by
    obtain ⟨h1, h2, h3, h4, h5⟩ := h
    obtain ⟨b1, b2, b3, b4, b5⟩ := hb
    exact ⟨b1.trans h1, b2.trans h2, b3.trans h3, b4.trans h4, b5.trans h5⟩
  rcases fsmStep_cases k ok pick u with ⟨he, -⟩ | ⟨he, -⟩ <;> rw [he]
  · exact .same hs
  · exact .delivers _ hs

/-- Every effect, seen from the client. -/
theorem Effect.client {k : Config} {s t : State} (h : Effect k s t) : ClientStep k s t := by
  have hrefl : SameClient s s := ⟨rfl, rfl, rfl, rfl, rfl⟩
  cases h with
  | encode => unfold State.hostEncode; split <;> exact .same hrefl
  | decode =>
    simp only [State.hostDecode]
    rw [decodeResponse_frame]
    exact .same hrefl
  | execute => unfold State.startExecute; split <;> exact .same hrefl
  | launch q i hi =>
    have hl : ¬251 < (if k.hasIndex q = true then (1 : Byte) else 0).toNat := by split <;> decide
    have hs : ((State.openQuery q ((s.acceptStart .execute).writeRequest k q i)).startExecute) =
        { State.openQuery q ((s.acceptStart .execute).writeRequest k q i) with tstate := .arm } := if_neg hl
    rw [hs]
    exact .launches q hi rfl rfl rfl rfl rfl rfl
  | fsm ok pick => exact fsmStep_client hrefl ok pick
  | fsmFree => exact fsmStep_client (u := s.draw) hrefl _ _
  | report d =>
    obtain ⟨u, hu, -, ⟨-, h⟩ | ⟨-, h⟩⟩ := slaveReport_cases k s d <;> rw [h]
    · rw [hu]; exact .same hrefl
    · refine fsmStep_client (u := u.draw) ?_ _ _
      show SameClient s u
      rw [hu]
      exact hrefl
  | deposit =>
    rcases depositNext_cases s with ⟨-, he⟩ | ⟨v, q, -, he⟩ <;> rw [he]
    · exact .same hrefl
    · rw [depositByte_frame]; exact .same hrefl
  | _ => exact .same hrefl

/-- A query's launch, by the state of the block (R41). -/
theorem launch_effect (k : Config) (q : Query) (index : Option Byte) (s : State) :
    Effect k s (s.launch k q index) := by
  unfold State.launch startUnit
  split
  · exact .launch q _ ‹_›
  · exact .nothing

/-- Every instruction answers a next state, and its effect is one of the list. -/
theorem exec_effect (i : Instr) (s : State) :
    ∃ t, exec i s = .next t ∧ Effect Config.session s t := by
  cases i with
  | execute =>
    refine ⟨_, rfl, ?_⟩
    unfold startUnit; split
    · exact .execute ‹_›
    · exact .nothing
  | encode =>
    refine ⟨_, rfl, ?_⟩
    unfold startUnit; split
    · exact .encode ‹_›
    · exact .nothing
  | decode =>
    refine ⟨_, rfl, ?_⟩
    unfold startUnit; split
    · exact .decode ‹_›
    · exact .nothing
  | iscomplete =>
    refine ⟨_, rfl, ?_⟩
    unfold startUnit; split
    · exact .iscomplete ‹_›
    · exact .nothing
  | slaveError data => exact ⟨_, rfl, .report data⟩
  | _ => exact ⟨_, rfl, launch_effect _ _ _ _⟩

/-- The moves other than `issue`. -/
theorem environment_effect {k : Config} {s t : State} {m : Move} (h : s.environment k m = .next t) :
    Effect k s t ∨ (m = .reset ∧ t = s.resetInput) := by
  by_cases hm : m = .reset
  · subst hm; cases h; exact .inr ⟨rfl, rfl⟩
  left
  cases m with
  | issue bytes => cases h; exact .nothing
  | write target v =>
    simp only [State.environment, State.hostWrite] at h
    split at h
    · rename_i hi
      cases target <;> simp only [State.hostStore] at h
      all_goals (try split at h) <;> cases h
      · exact .writeReqCmd v hi
      · exact .writeReqLen v hi
      · exact .writeReqData _ v hi ‹_›
      · exact .writeTx _ v hi ‹_›
      · exact .writeRx _ v hi ‹_›
    · cases h; exact .nothing
  | read target =>
    cases target <;> simp only [State.environment, State.hostRead, State.windowRead] at h
    all_goals (repeat' split at h) <;> cases h
    all_goals exact .read _ _
  | fsm ok pick => cases h; exact .fsm ok pick
  | slaveSend v => cases h; exact .slaveSend v
  | deposit => cases h; exact .deposit
  | waitFail b => cases h; exact .waitFail b
  | tick n => cases h; exact .clock _ (Nat.le_add_right _ _)
  | clockTo n => cases h; exact .clock _ (Nat.le_max_left _ _)
  | reset => exact absurd rfl hm

/-- Every step, once its move is off the schedule, has an effect of the list, or is the reset input. -/
theorem step_effect {s t : State} (h : step s = .next t) :
    ∃ rest, Effect Config.session { s with inputs := rest } t ∨
      (s.inputs.head? = some .reset ∧ t = { s with inputs := rest }.resetInput) := by
  unfold step at h
  split at h
  · rename_i hi
    refine ⟨s.inputs, .inl ?_⟩
    cases h
    unfold State.fsmFree
    split
    · exact .nothing
    · exact .fsmFree ‹_›
  · rename_i bytes rest hi
    refine ⟨rest, .inl ?_⟩
    unfold runIssued at h
    split at h
    · rename_i i hd
      obtain ⟨t', ht, he⟩ := exec_effect i { s with inputs := rest }
      rw [ht] at h
      cases h
      exact he
    · cases h
  · rename_i m rest _ hi
    refine ⟨rest, ?_⟩
    rcases environment_effect h with he | ⟨rfl, rfl⟩
    · exact .inl he
    · exact .inr ⟨by rw [hi]; rfl, rfl⟩

/-- Without the reset input, every step's effect is one of the list. -/
theorem step_effect_of_resetNotNext {s t : State} (h : step s = .next t) (hr : s.resetNotNext) :
    ∃ rest, Effect Config.session { s with inputs := rest } t := by
  obtain ⟨rest, he | ⟨h0, -⟩⟩ := step_effect h
  · exact ⟨rest, he⟩
  · exact absurd h0 hr

end Sys2Proof.Machine
end

