-- ==== Sys2Proof/Tests/Slice0.lean ====
section
/-! SUPPORT. The model's own tests: words written out from spec/30_encoding.md, ill-formed terms, vectors of
spec/95_test_vectors.md one step each (configuration EX1 of its part 0.1), and for every obligation with
hypotheses a named witness that meets them. -/

open Sys2Proof Sys2Proof.Machine

namespace Sys2Proof.Tests

/-! ## The example configuration (spec/95_test_vectors.md 0.1, R145) -/

/-- `SUM16` (R145). -/
def sum16 (b : List Byte) : Half := BitVec.ofNat 16 (b.foldr (fun x n => x.toNat + n) 0)

/-- `EX1`. -/
def ex1 : Config := { sop := 0xA5, ver := 0x01, eop := 0x5A, ck := sum16, timeout := 100 }

/-- `EX1` with the index byte in the measurement query. -/
def exIndex : Config := { sop := 0xA5, ver := 0x01, eop := 0x5A, ck := sum16, hasIndex := fun q => q == .sensorData }

/-- `n` bytes of data. -/
def zeros (n : Nat) : List Byte := List.replicate n 0

theorem length_zeros (n : Nat) : (zeros n).length = n := List.length_replicate

/-! ## Decoding: words written out from the encoding -/

/-- h_op 00, 01, 10, 11 (R95). -/
theorem test_decode_opSelect :
    decode ex1 [0x00] = .ok .execute ∧ decode ex1 [0x01] = .ok .encode ∧ decode ex1 [0x02] = .ok .decode ∧
      decode ex1 [0x03] = .ok .iscomplete := by decide

/-- V-E1, V-E2: start marker, version, command 0x10, length, data, checksum low and high, end marker (R80, R85). -/
theorem test_decode_getModelName :
    decode ex1 [0xA5, 0x01, 0x10, 0x00, 0xB6, 0x00, 0x5A] = .ok (.getModelName none) ∧
      decode ex1 [0xA5, 0x01, 0x10, 0x01, 0x00, 0xB7, 0x00, 0x5A] = .ok (.getModelName (some 0)) := by decide

theorem test_decode_getProductName :
    decode ex1 [0xA5, 0x01, 0x11, 0x00, 0xB7, 0x00, 0x5A] = .ok (.getProductName none) := by decide

theorem test_decode_getFirmwareVersion :
    decode ex1 [0xA5, 0x01, 0x12, 0x00, 0xB8, 0x00, 0x5A] = .ok (.getFirmwareVersion none) := by decide

theorem test_decode_getSerialNumber :
    decode ex1 [0xA5, 0x01, 0x13, 0x00, 0xB9, 0x00, 0x5A] = .ok (.getSerialNumber none) := by decide

/-- V-E6. -/
theorem test_decode_getRuntime :
    decode ex1 [0xA5, 0x01, 0x14, 0x00, 0xBA, 0x00, 0x5A] = .ok (.getRuntime none) := by decide

theorem test_decode_getProductionDate :
    decode ex1 [0xA5, 0x01, 0x15, 0x00, 0xBB, 0x00, 0x5A] = .ok (.getProductionDate none) := by decide

/-- V-E7. -/
theorem test_decode_getSensorData :
    decode ex1 [0xA5, 0x01, 0x16, 0x01, 0x00, 0xBD, 0x00, 0x5A] = .ok (.getSensorData (some 0)) := by decide

theorem test_decode_getSensorTemperature :
    decode ex1 [0xA5, 0x01, 0x17, 0x00, 0xBD, 0x00, 0x5A] = .ok (.getSensorTemperature none) := by decide

theorem test_decode_getSensorDataFormat :
    decode ex1 [0xA5, 0x01, 0x18, 0x00, 0xBE, 0x00, 0x5A] = .ok (.getSensorDataFormat none) := by decide

theorem test_decode_getSensorName :
    decode ex1 [0xA5, 0x01, 0x19, 0x01, 0x07, 0xC7, 0x00, 0x5A] = .ok (.getSensorName (some 7)) := by decide

/-- V-E8. -/
theorem test_decode_slaveError :
    decode ex1 [0xA5, 0x01, 0xFF, 0x01, 0x02, 0xA8, 0x01, 0x5A] = .ok (.slaveError [0x02]) := by decide

/-- What is no instruction, by name. -/
theorem test_decode_rejects :
    decode ex1 [] = .reject .nothing ∧ decode ex1 [0x04] = .reject .opSelectTooWide ∧
      decode ex1 [0xA5, 0x01, 0x10] = .reject .truncatedFrame ∧
      decode ex1 [0xA5, 0x01, 0x10, 0x00, 0xB6, 0x00] = .reject .truncatedFrame ∧
      decode ex1 [0xA5, 0x01, 0x10, 0xFC] = .reject .lengthExceedsMaxData ∧
      decode ex1 [0xA5, 0x01, 0x77, 0x00, 0, 0, 0x5A] = .reject .unknownCommand ∧
      decode ex1 [0xA5, 0x01, 0x10, 0x02, 1, 2, 0xBB, 0x00, 0x5A] = .reject .notARequest := by decide

/-- The table's words as the host gives them. -/
theorem test_decodeTableWord :
    decodeTableWord 8 1 = some .encode ∧ decodeTableWord 8 4 = none ∧
      decodeTableWord 32 0xA5011000 = some (.getModelName none) := by decide

/-! ## Well-formedness: one ill-formed term for each check -/

/-- More data than a frame holds (R13). -/
theorem test_wellFormed_refuses_long_data : WellFormed ex1 (.slaveError (zeros 252)) = false := by
  simp only [WellFormed, Instr.encodable, length_zeros]
  decide

/-- An index byte the query does not carry, and a missing one (R190). -/
theorem test_wellFormed_refuses_operand :
    WellFormed ex1 (.getSensorData (some 0)) = false ∧ WellFormed exIndex (.getSensorData none) = false := by decide

theorem test_wellFormed_accepts :
    WellFormed ex1 (.slaveError (zeros 251)) = true ∧ WellFormed exIndex (.getSensorData (some 0)) = true ∧
      WellFormed ex1 .execute = true := by
  simp only [WellFormed, Instr.encodable, length_zeros]
  decide

/-! ## Vectors, one step each -/

/-- A state with bytes in `RXBUF`. -/
def rx (bytes : List Byte) : State := { State.reset with rxbuf := Memory.writeBytes [] 0 bytes }

/-- DECODE started by the host. -/
def decoded (k : Config) (bytes : List Byte) : State := startUnit .decode (State.hostDecode k) (rx bytes)

/-- V-E1, V-E4: the whole frame, checksum low byte first. -/
theorem test_encode_frames :
    encodeFrame ex1 0x10 [] = [0xA5, 0x01, 0x10, 0x00, 0xB6, 0x00, 0x5A] ∧
      encodeFrame ex1 0x10 [0x46, 0x4F, 0x58] = [0xA5, 0x01, 0x10, 0x03, 0x46, 0x4F, 0x58, 0xA6, 0x01, 0x5A] := by
  decide

/-- V-E2: ENCODE started by the host. -/
theorem test_encode :
    let s := startUnit .encode (State.hostEncode ex1) { State.reset with reqCmd := 0x10, reqLen := 1 }
    s.txCount = 8 ∧ Memory.readBytes s.txbuf 0 8 = [0xA5, 0x01, 0x10, 0x01, 0x00, 0xB7, 0x00, 0x5A] := by decide

/-- V-E10: rejected, `TX_COUNT` unchanged, `DONE` set. -/
theorem test_encode_oversize :
    let s := startUnit .encode (State.hostEncode ex1) { State.reset with reqLen := 252, txCount := 8 }
    s.err = .requestRejected ∧ s.txCount = 8 ∧ s.done = true := by decide

/-- V-D2. -/
theorem test_decode_ok :
    let s := decoded ex1 [0xA5, 0x01, 0x10, 0x03, 0x46, 0x4F, 0x58, 0xA6, 0x01, 0x5A]
    s.err = .noError ∧ s.rspCmd = 0x10 ∧ Memory.readBytes s.rspData 0 s.rspLen.toNat = [0x46, 0x4F, 0x58] := by decide

/-- V-D4, V-D11, V-D13, V-D18. -/
theorem test_decode_verdicts :
    (decoded ex1 [0xA5, 0x01, 0xFF, 0x01, 0x02, 0xA8, 0x01, 0x5A]).err = .slaveReportedError ∧
      (decoded ex1 [0xA4, 0x01, 0x10, 0x01, 0x2A, 0xE1, 0x00, 0x5A]).err = .invalidStartMarker ∧
      (decoded ex1 [0xA5, 0x01, 0x11, 0x01, 0x2A, 0xE1, 0x00, 0x5A]).err = .invalidChecksum ∧
      (decoded ex1 [0xA5, 0x01, 0x10, 0x01, 0x2A, 0xE1, 0x00, 0x5B]).err = .invalidEndMarker := by decide

/-- ISCOMPLETE: a whole frame with data, one byte less, and a frame without data (R125, R126). -/
theorem test_iscomplete :
    (startUnit .iscomplete State.hostIscomplete (rx [0xA5, 1, 0x10, 1, 0x2A, 0xE1, 0, 0x5A])).complete = true ∧
      (startUnit .iscomplete State.hostIscomplete (rx [0xA5, 1, 0x10, 1, 0x2A, 0xE1, 0])).complete = false ∧
      (startUnit .iscomplete State.hostIscomplete (rx [0xA5, 1, 0x10, 0, 0xB6, 0, 0x5A])).complete = false := by decide

/-- A block in WAIT since time 0, with bytes received and a query in flight. -/
def waiting (bytes : List Byte) : State :=
  { rx bytes with tstate := .wait, rxArmed := true, rxWr := bytes.length, query := some .modelName }

/-- The example of R150: the response "FOX". -/
theorem test_execute_completes :
    let s := (waiting [0xA5, 0x01, 0x10, 0x03, 0x46, 0x4F, 0x58, 0xA6, 0x01, 0x5A]).fsmStep ex1 true .completion
    s.tstate = .idle ∧ s.err = .noError ∧ s.trace = [.abort] ∧
      s.result = some ⟨.modelName, .string [0x46, 0x4F, 0x58, 0x00], .noError, none⟩ := by decide

/-- `NOW - T0 = 99` waits, 100 times out (R158). -/
theorem test_execute_timeout :
    (({ waiting [] with now := 99 } : State).fsmStep ex1 true .timeout).tstate = .wait ∧
      (({ waiting [] with now := 100 } : State).fsmStep ex1 true .completion).err = .transportTimeout := by decide

/-- Arming fails: nothing sent, nothing aborted (R153). -/
theorem test_execute_armFailure :
    let s := ({ State.reset with tstate := .arm } : State).fsmStep ex1 false .completion
    s.err = .armFailure ∧ s.trace = [.arm false] := by decide

/-- EXECUTE's START step. -/
theorem test_execute_starts :
    (match step (State.reset.withFetchWord 8 0) with
      | .next s => s.tstate
      | .fault _ => .idle
      | .refused _ => .idle) = .arm := by decide

/-- Requests: without and with the index byte (R190). -/
theorem test_query_request :
    (State.reset.launch ex1 .sensorData none).reqCmd = 0x16 ∧ (State.reset.launch ex1 .sensorData none).reqLen = 0 ∧
      (State.reset.launch exIndex .sensorData (some 7)).reqLen = 1 ∧
      Memory.read (State.reset.launch exIndex .sensorData (some 7)).reqData 0 = 7 := by decide

/-- S6, V-Q1 to V-Q3: 12345, 12350, -12350. -/
theorem test_sensorData :
    convert .sensorData [1, 2, 0x39, 0x30, 0, 0] = some (.measurement ⟨1, 2, 123⟩) ∧
      convert .sensorData [0, 0, 0x3E, 0x30, 0, 0] = some (.measurement ⟨0, 0, 124⟩) ∧
      convert .sensorData [0, 0, 0xC2, 0xCF, 0xFF, 0xFF] = some (.measurement ⟨0, 0, -124⟩) := by decide

/-- R197: `-2^31` gives -21474836. -/
theorem test_sensorData_lowest :
    convert .sensorData [0, 0, 0, 0, 0, 0x80] = some (.measurement ⟨0, 0, BitVec.ofInt 32 (-21474836)⟩) := by decide

/-- S5: -2050 hundredths. -/
theorem test_temperature :
    convert .sensorTemperature [0xFE, 0xF7, 0xFF, 0xFF] = some (.temperature (-2050)) := by decide

/-- S7: "SN0012345". -/
theorem test_serialNumber :
    convert .serialNumber [0x53, 0x4E, 0x30, 0x30, 0x31, 0x32, 0x33, 0x34, 0x35] = some (.serialNumber 12345) := by
  decide

/-- Little-endian, unsigned (R195). -/
theorem test_runtime : convert .runtime [0x01, 0x02, 0x03, 0x84] = some (.runtime 0x84030201) := by decide

/-- V-D4 received and polled: the two halves of SLAVE_ERROR's meaning in WAIT. -/
theorem test_slaveError :
    let s := ({ waiting [] with now := 5, inbound := encodeFrame ex1 ex1.cmdSlaveError [0x02] } : State).depositAll.fsmStep
      ex1 true .completion
    s.err = .slaveReportedError ∧ s.rspCmd = 0xFF ∧ s.tstate = .idle ∧ s.query = none := by decide

/-! ## Witnesses: states and operands that meet the hypotheses of the obligations -/

/-- A block in step ARM. -/
def armState : State := { State.reset with tstate := .arm, query := some .sensorDataFormat }

/-- A block in step SEND. -/
def sendState : State := { State.reset with tstate := .send, rxArmed := true }

/-- A block in step WAIT with nothing received. -/
def waitState : State :=
  { State.reset with
    tstate := .wait, rxArmed := true, query := some .modelName
    txbuf := Memory.writeBytes [] 0 (encodeFrame Config.session 0 []), txCount := 7 }

/-- The same with two bytes that complete it. -/
def completedState : State := { waitState with rxbuf := [(3, 1), (7, 1)], rxWr := 8 }

/-- A frame with a given number of data bytes in `RXBUF`, for the session's parameters. -/
def frameState (n : Nat) : State := rx (encodeFrame Config.session 0x10 (zeros n))

theorem inv_reset : Inv Config.session State.reset := by
  constructor <;> simp [State.reset, Memory.wf, Memory.wfFrom]

theorem inv_armState : Inv Config.session armState := by
  constructor <;> simp [armState, State.reset, Memory.wf, Memory.wfFrom]

theorem inv_sendState : Inv Config.session sendState := by
  constructor <;> simp [sendState, State.reset, Memory.wf, Memory.wfFrom]

theorem inv_waitState : Inv Config.session waitState where
  reqData_wf := rfl
  rspData_wf := rfl
  txbuf_wf := Memory.wf_writeBytes rfl (by simp [txDepth])
  rxbuf_wf := rfl
  armed_iff := by simp [waitState]
  busy_len := by simp [waitState, State.reset]
  busy_op := fun _ => rfl
  busy_not_done := fun _ => rfl
  deposits_below := fun _ => rfl
  wait_frame := fun _ => Memory.readBytes_writeBytes (d := txDepth) rfl (by simp [txDepth])
  wait_open := fun _ => Nat.le_refl _
  query_busy := fun _ => nofun
  count_range := .inr (by decide)
  err_not_reserved := ⟨nofun, nofun⟩
  failure_clean := nofun

theorem inv_completedState : Inv Config.session completedState :=
  { inv_waitState with rxbuf_wf := by decide, deposits_below := fun _ => by decide }

theorem witness_DecodeReadsBackEveryEncoding :
    Instr.encodable (.slaveError (zeros 251)) = true ∧ Instr.encodable (.slaveError []) = true ∧
      Instr.encodable .execute = true ∧ Instr.encodable (.getRuntime (some 0xFF)) = true := by
  simp only [Instr.encodable, length_zeros]
  decide

/-- A one-byte input, and a frame longer than the instruction's own. -/
theorem witness_DecodedBytesCarryTheInstruction :
    (decode Config.session [0x03] = .ok .iscomplete ∧ [(0x03 : Byte)].length = 1) ∧
      (decode Config.session [0, 0, 0x10, 0, 0, 0, 0, 9] = .ok (.getModelName none) ∧
        [(0 : Byte), 0, 0x10, 0, 0, 0, 0, 9].length ≠ 1) := by decide

/-- One input for each clause, at its boundary. -/
theorem witness_OtherWordsAreRefused :
    4 ≤ (4#8).toNat ∧ [(0 : Byte), 0].length = 2 ∧ [(0 : Byte), 0, 0].length = 3 ∧
      ((0#8).toNat ≤ 251 ∧ [(0 : Byte), 0].length < (0#8).toNat + 3) ∧ 251 < (252#8).toNat ∧
      ((0#8).toNat ≤ 251 ∧ (0#8).toNat + 3 ≤ [(0 : Byte), 0, 0].length ∧ (∀ q, (0x77 : Byte) ≠ ex1.commandOf q) ∧
        (0x77 : Byte) ≠ ex1.cmdSlaveError) ∧
      (2 ≤ (2#8).toNat ∧ (2#8).toNat ≤ 251 ∧ (2#8).toNat + 3 ≤ (zeros 5).length) ∧
      ({ State.reset with inputs := [.issue [0x04]] } : State).inputs = .issue [0x04] :: [] ∧
      decode Config.session [0x04] = .reject .opSelectTooWide := by
  refine ⟨by decide, rfl, rfl, by decide, by decide, ⟨by decide, by decide, fun q => by cases q <;> decide, by decide⟩,
    by decide, rfl, by decide⟩

theorem witness_StepRunsTheDecodedInstruction :
    (({ State.reset with inputs := [.issue [0x02]] } : State).inputs = .issue [0x02] :: [] ∧
      decode Config.session [0x02] = .ok .decode) ∧
    decodeTableWord 8 3 = some .iscomplete := by
  exact ⟨⟨rfl, by decide⟩, by decide⟩

theorem witness_EmptyScheduleLeavesTheFsmAlone :
    State.reset.inputs = [] ∧ State.reset.tstate = .idle ∧ armState.inputs = [] ∧ armState.tstate ≠ .idle := by decide

theorem witness_ResetGivesTheStatedValues :
    ({ armState with inputs := [.reset] } : State).inputs = Move.reset :: [] ∧
      ∃ s, step { armState with inputs := [.reset] } = .next s := ⟨rfl, _, rfl⟩

theorem witness_ResetAbandonsTheWaitingCall :
    ({ armState with inputs := [.reset] } : State).inputs = Move.reset :: [] ∧ armState.query ≠ none := ⟨rfl, nofun⟩

theorem witness_EveryStepKeepsTheInvariant :
    (Inv Config.session State.reset ∧ ∃ t, step State.reset = .next t) ∧
    (Inv Config.session completedState ∧ ∃ t, step completedState = .next t) ∧
    (Inv Config.session sendState ∧ ∃ t, step sendState = .next t) :=
  ⟨⟨inv_reset, _, rfl⟩, ⟨inv_completedState, _, rfl⟩, ⟨inv_sendState, _, rfl⟩⟩

theorem witness_EncodeWritesTheFrame :
    State.reset.tstate = .idle ∧ ({ State.reset with reqLen := 251 } : State).reqLen.toNat ≤ 251 ∧
      State.reset.reqLen.toNat ≤ 251 ∧ Memory.wf txDepth State.reset.txbuf = true := by decide

theorem witness_OversizeRequestIsRejected :
    ({ State.reset with reqLen := 252 } : State).tstate = .idle ∧
      251 < ({ State.reset with reqLen := 252 } : State).reqLen.toNat ∧
      251 < ({ State.reset with reqLen := 255 } : State).reqLen.toNat := by decide

theorem witness_DecodeFirstFailingCheckDecides : State.reset.tstate = .idle ∧ Memory.wf maxData State.reset.rspData = true :=
  ⟨rfl, rfl⟩

/-- A buffer with a bad start marker. -/
theorem witness_DecodeFirstFailingCheckDecides_start :
    checkFrame Config.session [(0, Config.session.sop + 1)] = some .invalidStartMarker := by
  rw [checkFrame_eq, if_pos]
  refine .inl ?_
  show Config.session.sop + 1 ≠ Config.session.sop
  have h : ∀ x : Byte, x + 1 ≠ x := by decide
  exact h _

/-- A frame whose end marker was overwritten by 0, and one whose checksum's low byte was changed (length byte 0). -/
theorem witness_DecodeFirstFailingCheckDecides_order :
    let e := encodeFrame Config.session 0x10 []
    ((s : State) → s.rxbuf = Memory.writeBytes [] 0 (e.set 6 0) →
      Memory.read s.rxbuf 0 = Config.session.sop ∧ Memory.read s.rxbuf 1 = Config.session.ver ∧
      Memory.read s.rxbuf (6 + (Memory.read s.rxbuf 3).toNat) ≠ Config.session.eop) ∧
    ((s : State) → s.rxbuf = Memory.writeBytes [] 0 e →
      Memory.read s.rxbuf 0 = Config.session.sop ∧ Memory.read s.rxbuf 1 = Config.session.ver ∧
      Memory.read s.rxbuf (6 + (Memory.read s.rxbuf 3).toNat) = Config.session.eop) := by
  constructor
  · intro s hs
    have hr : ∀ a, Memory.read s.rxbuf a = (((encodeFrame Config.session 0x10 []).set 6 0)[a]?).getD 0 := by
      intro a; rw [hs]; exact read_frameBuffer (by simp [rxDepth]) a
    rw [hr, hr, hr 3]
    refine ⟨rfl, rfl, ?_⟩
    show Memory.read s.rxbuf 6 ≠ _
    rw [hr]
    exact fun h => Config.session.eop_ne_zero h.symm
  · intro s hs
    have hr : ∀ a, Memory.read s.rxbuf a = ((encodeFrame Config.session 0x10 [])[a]?).getD 0 := by
      intro a; rw [hs]; exact read_frameBuffer (by simp [rxDepth]) a
    rw [hr, hr, hr 3]
    refine ⟨rfl, rfl, ?_⟩
    show Memory.read s.rxbuf 6 = _
    rw [hr]
    rfl

/-- Good markers, a good end marker and a bad checksum: one of two checksum fields is not the right one. -/
theorem witness_DecodeFirstFailingCheckDecides_checksum :
    ∃ s : State, s.tstate = .idle ∧ Memory.wf maxData s.rspData = true ∧
      Memory.read s.rxbuf 0 = Config.session.sop ∧ Memory.read s.rxbuf 1 = Config.session.ver ∧
      Memory.read s.rxbuf (6 + (Memory.read s.rxbuf 3).toNat) = Config.session.eop ∧
      le16 (Memory.read s.rxbuf (4 + (Memory.read s.rxbuf 3).toNat)) (Memory.read s.rxbuf (5 + (Memory.read s.rxbuf 3).toNat)) ≠
        Config.session.ck (Memory.readBytes s.rxbuf 0 (4 + (Memory.read s.rxbuf 3).toNat)) := by
  obtain ⟨lo, hi, h⟩ : ∃ lo hi : Byte, le16 lo hi ≠ Config.session.ck [Config.session.sop, Config.session.ver, 0x10, 0] := by
    by_cases h : le16 0 0 = Config.session.ck [Config.session.sop, Config.session.ver, 0x10, 0]
    · exact ⟨1, 0, by rw [← h]; decide⟩
    · exact ⟨0, 0, h⟩
  have hl : [Config.session.sop, Config.session.ver, 0x10, 0, lo, hi, Config.session.eop].length ≤ rxDepth := by simp [rxDepth]
  refine ⟨rx [Config.session.sop, Config.session.ver, 0x10, 0, lo, hi, Config.session.eop], rfl, rfl, ?_⟩
  simp only [rx]
  rw [read_frameBuffer hl, read_frameBuffer hl, read_frameBuffer hl 3]
  refine ⟨rfl, rfl, read_frameBuffer hl 6, ?_⟩
  show le16 (Memory.read _ 4) (Memory.read _ 5) ≠ Config.session.ck (Memory.readBytes _ 0 4)
  rw [read_frameBuffer hl, read_frameBuffer hl, readBytes_frameBuffer hl (by simp)]
  exact h

/-- Frames that pass every check, with length bytes 0 and 251, and 252 and 255 for the guard path. -/
theorem witness_DecodeFirstFailingCheckDecides_passes (n : Nat) (h : n ≤ 255) :
    checkFrame Config.session (frameState n).rxbuf = none ∧ (Memory.read (frameState n).rxbuf 3).toNat = n := by
  refine ⟨checkFrame_encodeFrame _ _ _ (by rw [length_zeros]; exact h), ?_⟩
  exact (fields_encodeFrame Config.session 0x10 (zeros n) (by rw [length_zeros]; exact h)).2.1.trans (length_zeros n)

theorem witness_DecodeOfEncodeGivesThePacket (n : Nat) (h : n ≤ 251) :
    (frameState n).tstate = .idle ∧ Memory.wf maxData (frameState n).rspData = true ∧
      (zeros n).length ≤ 251 ∧
      (frameState n).rxbuf = Memory.writeBytes [] 0 (encodeFrame Config.session 0x10 (zeros n)) :=
  ⟨rfl, rfl, by rw [length_zeros]; exact h, rfl⟩

theorem sum16_append (a b : List Byte) :
    (a ++ b).foldr (fun (x : Byte) n => x.toNat + n) 0 =
      a.foldr (fun (x : Byte) n => x.toNat + n) 0 + b.foldr (fun (x : Byte) n => x.toNat + n) 0 := by
  induction a with
  | nil => simp
  | cons x a ih => simp [ih, Nat.add_assoc]

/-- R143 holds of `SUM16` (R145), so the premise can be met. -/
theorem ex1_singleByteSensitive : ex1.SingleByteSensitive := by
  intro X Y j hlen h4 _ _ hj hne heq
  have hx : X = X.take j ++ X[j] :: X.drop (j + 1) := by simp
  have hj' : j < Y.length := by omega
  have hy : Y = Y.take j ++ Y[j] :: Y.drop (j + 1) := by simp
  have ht : X.take j = Y.take j := by
    apply List.ext_getElem?
    intro i
    rw [List.getElem?_take, List.getElem?_take]
    split
    · exact heq i (by omega)
    · rfl
  have hd : X.drop (j + 1) = Y.drop (j + 1) := by
    apply List.ext_getElem?
    intro i
    rw [List.getElem?_drop, List.getElem?_drop]
    exact heq _ (by omega)
  have hb : X[j].toNat ≠ Y[j].toNat := by
    intro h
    rw [List.getElem?_eq_getElem hj, List.getElem?_eq_getElem hj'] at hne
    exact hne (congrArg some (BitVec.eq_of_toNat_eq h))
  intro hs
  have hs' := congrArg BitVec.toNat hs
  simp only [ex1, sum16, BitVec.toNat_ofNat] at hs'
  rw [hx, hy, sum16_append, sum16_append, ht, hd] at hs'
  simp only [List.foldr_cons] at hs'
  have := X[j].isLt
  have := Y[j].isLt
  omega

/-- Every offset of a frame with one data byte changed, one at a time. -/
theorem witness_OneChangedByteIsReported :
    ex1.SingleByteSensitive ∧ [(0x2A : Byte)].length ≤ 251 ∧
      (∀ j < 8, j < 7 + [(0x2A : Byte)].length ∧ (encodeFrame ex1 0x10 [0x2A])[j]? ≠ some 0x77) ∧
      ∀ j, (rx ((encodeFrame ex1 0x10 [0x2A]).set j 0x77)).rxbuf =
        Memory.writeBytes [] 0 ((encodeFrame ex1 0x10 [0x2A]).set j 0x77) :=
  ⟨ex1_singleByteSensitive, by decide, by decide, fun _ => rfl⟩

theorem witness_ReservedCodesAreNeverProduced :
    (∃ t, step { State.reset with err := .invalidVersion } = .next t ∧ t.err = .invalidVersion) ∧
      ∃ t, step { State.reset with err := .unknownCommand } = .next t ∧ t.err = .unknownCommand :=
  ⟨⟨_, rfl, rfl⟩, ⟨_, rfl, rfl⟩⟩

theorem witness_IscompleteLooksAtTwoBytes : State.reset.tstate = .idle := rfl

theorem witness_CompletionMeansTheBytesArrived :
    Inv Config.session completedState ∧ completedState.rxArmed = true ∧ iscomplete completedState.rxbuf = true :=
  ⟨inv_completedState, rfl, by decide⟩

theorem witness_OnlyWholeFramesWithDataComplete :
    (zeros 251).length ≤ 251 ∧ 257 < 7 + (zeros 251).length ∧
      ([] : List Byte).length ≤ 251 := by
  simp only [length_zeros]
  decide

theorem witness_ExecuteStartsTheTransaction : State.reset.tstate = .idle ∧ State.reset.reqLen.toNat ≤ 251 := by decide

theorem witness_StartWhileBusyIsIgnored :
    ((∀ data, Instr.getRuntime none ≠ .slaveError data) ∧ armState.tstate ≠ .idle) ∧
      (Instr.decode, UnitOp.decode) ∈ [(Instr.execute, UnitOp.execute), (.encode, .encode), (.decode, .decode),
        (.iscomplete, .iscomplete)] ∧ State.reset.tstate = .idle :=
  ⟨⟨nofun, by decide⟩, by decide, rfl⟩

theorem witness_ArmStepClearsAndArms (ok : Bool) :
    ({ armState with inputs := [.fsm ok .timeout] } : State).inputs = .fsm ok .timeout :: [] ∧
      ({ armState with inputs := [.fsm ok .timeout] } : State).tstate = .arm := ⟨rfl, rfl⟩

theorem witness_SendStepTransmitsTheFrame (ok : Bool) :
    ({ sendState with inputs := [.fsm ok .timeout] } : State).inputs = .fsm ok .timeout :: [] ∧
      ({ sendState with inputs := [.fsm ok .timeout] } : State).tstate = .send ∧
      Inv Config.session { sendState with inputs := [.fsm ok .timeout] } := ⟨rfl, rfl, { inv_sendState with }⟩

/-- No exit enabled; each exit enabled alone is met by a state; all three at once. -/
theorem witness_WaitTakesAnyEnabledExit :
    (waitState.tstate = .wait ∧ Memory.read waitState.rxbuf 3 = 0 ∧ waitState.waitFail = false ∧
      ¬Config.session.timeout ≤ waitState.now - waitState.t0) ∧
    (Memory.read completedState.rxbuf 3 ≠ 0 ∧
      Memory.read completedState.rxbuf ((Memory.read completedState.rxbuf 3).toNat + 6) ≠ 0) ∧
    (({ completedState with now := Config.session.timeout, waitFail := true } : State).tstate = .wait ∧
      Config.session.timeout ≤ ({ completedState with now := Config.session.timeout, waitFail := true } : State).now -
        ({ completedState with now := Config.session.timeout, waitFail := true } : State).t0) :=
  ⟨⟨rfl, rfl, rfl, Nat.not_le_of_lt Config.session.timeout_pos⟩, by decide, rfl, Nat.le_refl _⟩

/-- The timeout at its first instant. -/
theorem witness_TimeoutIsReportedWithOneAbort :
    let s : State := { waitState with now := Config.session.timeout, inputs := [.fsm true .completion] }
    s.inputs = .fsm true .completion :: [] ∧ s.tstate = .wait ∧ iscomplete s.rxbuf = false ∧ s.waitFail = false ∧
      Config.session.timeout ≤ s.now - s.t0 :=
  ⟨rfl, rfl, by decide, rfl, Nat.le_refl _⟩

/-- A step that changes `TSTATE`. -/
theorem witness_NoOtherTransitionOfTstate :
    ∃ t, step { armState with inputs := [.fsm true .timeout] } = .next t ∧ t.tstate = .send ∧
      State.resetNotNext { armState with inputs := [.fsm true .timeout] } := ⟨_, rfl, rfl, nofun⟩

/-- A step that ends the transaction, and one that does not. -/
theorem witness_EndOfTransactionIsClean :
    (∃ t, Inv Config.session { armState with inputs := [.fsm false .timeout] } ∧
      step { armState with inputs := [.fsm false .timeout] } = .next t ∧ t.tstate = .idle) ∧
    (∃ t, Inv Config.session { armState with inputs := [.tick 1] } ∧
      step { armState with inputs := [.tick 1] } = .next t ∧ t.tstate ≠ .idle) :=
  ⟨⟨_, { inv_armState with }, rfl, rfl⟩, ⟨_, { inv_armState with }, rfl, nofun⟩⟩

/-- A whole transaction from reset that arms, fails to transmit and aborts. -/
theorem witness_AbortExactlyOncePerArm :
    ∃ t, Inv Config.session { State.reset with inputs := [.issue [0], .fsm true .timeout, .fsm false .timeout] } ∧
      Run { State.reset with inputs := [.issue [0], .fsm true .timeout, .fsm false .timeout] } t ∧ t.tstate = .idle ∧
      armedCount t.trace = 1 :=
  ⟨_, { inv_reset with }, .step (.step (.step (.refl _) nofun rfl) nofun rfl) nofun rfl, rfl, rfl⟩

/-- A rejected EXECUTE; a transaction that fails to arm; one that fails to transmit; one that arms, transmits and ends by
`t_wait_fail`. -/
theorem witness_TracesOfATransaction :
    (Inv Config.session { State.reset with reqLen := 252 } ∧ 251 < ({ State.reset with reqLen := 252 } : State).reqLen.toNat) ∧
    (∃ t, Transaction { State.reset with inputs := [.issue [0], .fsm false .timeout] } t ∧ t.tstate = .idle ∧
      t.err = .armFailure) ∧
    (∃ t, Transaction { State.reset with inputs := [.issue [0], .fsm true .timeout, .fsm false .timeout] } t ∧
      t.tstate = .idle ∧ t.err = .transmitFailure) ∧
    (∃ t, Transaction
        { State.reset with
          waitFail := true
          inputs := [.issue [0], .fsm true .timeout, .fsm true .timeout, .fsm true .waitFailure] } t ∧
      t.tstate = .idle ∧ t.err = .waitFailure ∧ armedCount t.trace = 1 ∧ transmitCount t.trace = 1 ∧
      abortCount t.trace = 1) :=
  ⟨⟨{ inv_reset with busy_len := fun h => absurd rfl h, wait_frame := nofun }, by decide⟩,
    ⟨_, .on (.start rfl nofun rfl nofun) nofun nofun rfl, rfl, rfl⟩,
    ⟨_, .on (.on (.start rfl nofun rfl nofun) nofun nofun rfl) nofun nofun rfl, rfl, rfl⟩,
    ⟨_, .on (.on (.on (.start rfl nofun rfl nofun) nofun nofun rfl) nofun nofun rfl) nofun nofun rfl, rfl, rfl, rfl, rfl, rfl⟩⟩

/-- A step that arms, one that transmits, and one that aborts. -/
theorem witness_EveryStepKeepsTheEventBalance :
    (∃ t, Inv Config.session { armState with inputs := [.fsm true .timeout] } ∧
      step { armState with inputs := [.fsm true .timeout] } = .next t ∧ armedCount t.trace = 1) ∧
    (∃ t, Inv Config.session { sendState with inputs := [.fsm true .timeout] } ∧
      step { sendState with inputs := [.fsm true .timeout] } = .next t ∧ transmitCount t.trace = 1) ∧
    (∃ t, Inv Config.session { waitState with waitFail := true, inputs := [.fsm true .waitFailure] } ∧
      step { waitState with waitFail := true, inputs := [.fsm true .waitFailure] } = .next t ∧ abortCount t.trace = 1) :=
  ⟨⟨_, { inv_armState with }, rfl, rfl⟩, ⟨_, { inv_sendState with }, rfl, rfl⟩, ⟨_, { inv_waitState with }, rfl, rfl⟩⟩

theorem witness_HistoryOnlyGrows :
    ∃ t, step { armState with inputs := [.fsm true .timeout] } = .next t ∧ t.trace = [.arm true] := ⟨_, rfl, rfl⟩

/-- The timeout condition holds, and a step leaves the block waiting. -/
theorem witness_WaitIsBounded :
    ∃ t, step { waitState with now := Config.session.timeout, inputs := [.tick 1] } = .next t ∧
      State.resetNotNext { waitState with now := Config.session.timeout, inputs := [.tick 1] } ∧ t.tstate = .wait ∧
      Config.session.timeout ≤ ({ waitState with now := Config.session.timeout } : State).now - waitState.t0 :=
  ⟨_, rfl, nofun, rfl, Nat.le_refl _⟩

/-- In ARM and in SEND a host write, in WAIT a clock tick, and a deposit in WAIT, above bytes that stay. -/
theorem witness_OperandsAreStableWhileBusy :
    (∃ t, step { armState with inputs := [.write (.rxbuf 0) 9] } = .next t ∧
      State.resetNotNext { armState with inputs := [.write (.rxbuf 0) 9] } ∧
      Inv Config.session { armState with inputs := [.write (.rxbuf 0) 9] } ∧ armState.tstate = .arm) ∧
    (∃ t, step { sendState with inputs := [.write (.rxbuf 0) 9] } = .next t ∧
      State.resetNotNext { sendState with inputs := [.write (.rxbuf 0) 9] } ∧ sendState.tstate = .send ∧
      ({ sendState with inputs := [.write (.rxbuf 0) 9] } : State).inputs.head? ≠ some .deposit) ∧
    (∃ t, step { completedState with inputs := [.tick 1] } = .next t ∧
      State.resetNotNext { completedState with inputs := [.tick 1] } ∧ completedState.tstate = .wait ∧
      ({ completedState with inputs := [.tick 1] } : State).inputs.head? ≠ some .deposit) ∧
    (∃ t, step { completedState with inbound := [7], inputs := [.deposit] } = .next t ∧
      State.resetNotNext { completedState with inbound := [7], inputs := [.deposit] } ∧
      Inv Config.session { completedState with inbound := [7], inputs := [.deposit] } ∧ 7 < completedState.rxWr) :=
  ⟨⟨_, rfl, nofun, { inv_armState with }, rfl⟩, ⟨_, rfl, nofun, rfl, nofun⟩, ⟨_, rfl, nofun, rfl, nofun⟩,
    ⟨_, rfl, nofun, { inv_completedState with }, by decide⟩⟩

/-- The last offset that exists, the first that does not, and an unarmed path. -/
theorem witness_DepositLandsAtThePosition (wr : Nat) (armed : Bool) :
    let s : State := { State.reset with rxArmed := armed, rxWr := wr, inbound := [7], inputs := [.deposit] }
    s.inputs = .deposit :: [] ∧ s.inbound = 7 :: [] ∧ Memory.wf rxDepth s.rxbuf = true ∧ s.rxArmed = armed :=
  ⟨rfl, rfl, rfl, rfl⟩

/-- The first offset each array lacks, idle, and for `RSP_DATA` busy. -/
theorem witness_FaultsAreOffsetsThatDoNotExist :
    step { State.reset with inputs := [.write (.reqData 251) 7] } = .fault (.noSuchOffset .reqData 251) ∧
      step { State.reset with inputs := [.write (.txbuf 258) 7] } = .fault (.noSuchOffset .txbuf 258) ∧
      step { State.reset with inputs := [.write (.rxbuf 262) 7] } = .fault (.noSuchOffset .rxbuf 262) ∧
      step { armState with inputs := [.read (.rspData 251)] } = .fault (.noSuchOffset .rspData 251) ∧
      step { State.reset with inputs := [.read (.txbuf 258)] } = .fault (.noSuchOffset .txbuf 258) ∧
      step { State.reset with inputs := [.read (.rxbuf 262)] } = .fault (.noSuchOffset .rxbuf 262) :=
  ⟨rfl, rfl, rfl, rfl, rfl, rfl⟩

/-- Each input, and an instant that is past and one that is not. -/
theorem witness_ClockAndTransportInputs (m : Move) :
    ({ State.reset with now := 5, inputs := [m] } : State).inputs = m :: [] ∧
      ({ State.reset with now := 5, inputs := [m] } : State).now ≤ 5 ∧
      ¬({ State.reset with now := 5, inputs := [m] } : State).now ≤ 4 :=
  ⟨rfl, Nat.le_refl 5, Nat.not_succ_le_self 4⟩

/-- Every target, at both ends of each array, idle and busy. -/
theorem witness_HostWritesOnlyWhileIdle (target : WriteTarget) :
    ({ State.reset with inputs := [.write target 7] } : State).inputs = .write target 7 :: [] ∧
      State.reset.tstate = .idle ∧ Inv Config.session { State.reset with inputs := [.write target 7] } ∧
      ({ armState with inputs := [.write target 7] } : State).tstate ≠ .idle ∧
      (0 < 251 ∧ 250 < 251 ∧ 257 < 258 ∧ 261 < 262) :=
  ⟨rfl, rfl, { inv_reset with }, nofun, by decide⟩

theorem witness_HostReadsHaveNoSideEffect (target : ReadTarget) :
    ({ State.reset with inputs := [.read target] } : State).inputs = .read target :: [] ∧
      State.reset.tstate = .idle ∧ ({ armState with inputs := [.read target] } : State).tstate ≠ .idle ∧
      ∃ t, step { State.reset with inputs := [.read (.rspData 250)] } = .next t :=
  ⟨rfl, rfl, nofun, _, rfl⟩

/-- Both values of `HAS_INDEX` are admissible parameters. -/
theorem witness_QueryLaunchBuildsTheRequest :
    State.reset.tstate = .idle ∧ Memory.wf maxData State.reset.reqData = true ∧
      (∃ k : Config, k.hasIndex .sensorData = true) ∧ ∃ k : Config, k.hasIndex .sensorData = false :=
  ⟨rfl, rfl, ⟨exIndex, rfl⟩, ⟨ex1, rfl⟩⟩

/-- A query whose transaction goes on, and one whose transaction ends with an error. -/
theorem witness_QueryReturnsWhenItsTransactionEnds :
    armState.tstate ≠ .idle ∧ armState.query = some .sensorDataFormat ∧
      (∃ t, step { armState with inputs := [.fsm true .timeout] } = .next t ∧ t.tstate ≠ .idle) ∧
      ∃ t, step { armState with inputs := [.fsm false .timeout] } = .next t ∧ t.tstate = .idle ∧ t.err ≠ .noError :=
  ⟨nofun, rfl, ⟨_, rfl, nofun⟩, ⟨_, rfl, rfl, nofun⟩⟩

/-- ... and one whose transaction ends with success: the response "FOX" of R150, under EX1. -/
theorem witness_QueryReturnsWhenItsTransactionEnds_success :
    let t := (waiting [0xA5, 0x01, 0x10, 0x03, 0x46, 0x4F, 0x58, 0xA6, 0x01, 0x5A]).fsmStep ex1 true .completion
    t.tstate = .idle ∧ t.err = .noError ∧ t.rspLen.toNat ≤ 251 := by decide

theorem witness_StringsRawBytesAndFallbacks :
    Query.sensorName ∈ [Query.modelName, .productName, .firmwareVersion, .sensorName] := by decide

/-- A transaction in WAIT, with a query in flight and a whole response of seven data bytes. -/
def respondedState (q : Query) : State :=
  { waitState with
    query := some q, rxbuf := Memory.writeBytes [] 0 (encodeFrame Config.session 0x10 (zeros 7)), rxWr := 14
    inputs := [.fsm true .completion] }

/-- Its next step ends the query with success and the response's data, with and without an index byte. -/
theorem respondedState_step (q : Query) :
    ∃ t, step (respondedState q) = .next t ∧ t.query = none ∧ t.err = .noError ∧ t.rspLen.toNat = 7 ∧
      ∀ j, j ≤ 7 → Memory.readBytes t.rspData j (t.rspLen.toNat - j) = zeros (7 - j) := by
  have hz : (zeros 7).length = 7 := rfl
  have hc : iscomplete (respondedState q).rxbuf = true := by
    have h := (iscomplete_frame_take Config.session 0x10 (zeros 7) (by decide) 14).2 ⟨by decide, nofun⟩
    rwa [List.take_of_length_le (by simp [hz])] at h
  refine ⟨_, (step_fsm (ok := true) (pick := .completion) (rest := []) rfl).trans
    (congrArg Host.Outcome.next (fsmStep_completion true rfl hc)), State.deliver_query _ _, ?_⟩
  rw [State.deliver_err, State.deliver_rspLen, State.deliver_rspData]
  simp only [State.hostDecode, State.finish]
  rw [decodeResponse_of_frame Config.session (c := 0x10) (data := zeros 7) (by decide) rfl]
  obtain ⟨f2, f3, f4⟩ := fields_encodeFrame Config.session 0x10 (zeros 7) (by decide)
  refine ⟨?_, f3.trans hz, fun j hj => ?_⟩
  · show statusOfCommand Config.session (Memory.read (Memory.writeBytes [] 0 _) 2) = _
    rw [f2]
    exact if_neg (Config.commandOf_ne_slaveError Config.session .modelName)
  · show Memory.readBytes (Memory.writeBytes [] 0 (receivedData (Memory.writeBytes [] 0 _))) j
      (lengthByte (Memory.writeBytes [] 0 _) - j) = _
    rw [f3, f4, hz, readBytes_frameBuffer (by decide) (by rw [hz]; omega)]
    apply List.ext_getElem?
    intro i
    simp only [zeros, List.getElem?_take, List.getElem?_drop, List.getElem?_replicate]
    repeat' split
    all_goals first | rfl | omega

/-- A fetched format that stays, a format that changes when its query fails, and one that a successful query fetches. -/
theorem witness_DataFormatIsFetchedOnce :
    (∃ t, step { State.reset with dataFormatFetched := true } = .next t ∧
      State.resetNotNext { State.reset with dataFormatFetched := true }) ∧
    (∃ t, step { armState with dataFormat := ⟨1, 2, 3, 4⟩, inputs := [.fsm false .timeout] } = .next t ∧
      armState.query = some .sensorDataFormat ∧ armState.dataFormatFetched = false ∧ t.query = none ∧
      t.err ≠ .noError ∧ t.dataFormat ≠ ⟨1, 2, 3, 4⟩) ∧
    (∃ t, step (respondedState .sensorDataFormat) = .next t ∧ State.resetNotNext (respondedState .sensorDataFormat) ∧
      (respondedState .sensorDataFormat).query = some .sensorDataFormat ∧
      (respondedState .sensorDataFormat).dataFormatFetched = false ∧ t.query = none ∧ t.err = .noError ∧
      t.rspLen.toNat ≤ 251 ∧ ∀ j, j ≤ 1 → ∃ b0 b1 b2 b3 more,
        Memory.readBytes t.rspData j (t.rspLen.toNat - j) = b0 :: b1 :: b2 :: b3 :: more) := by
  refine ⟨⟨_, rfl, nofun⟩, ⟨_, rfl, rfl, rfl, rfl, nofun, by decide⟩, ?_⟩
  obtain ⟨t, h1, h2, h3, h4, h5⟩ := respondedState_step .sensorDataFormat
  refine ⟨t, h1, nofun, rfl, rfl, h2, h3, by omega, fun j hj => ?_⟩
  rw [h5 j (by omega)]
  match j, hj with
  | 0, _ => exact ⟨_, _, _, _, _, rfl⟩
  | 1, _ => exact ⟨_, _, _, _, _, rfl⟩

/-- A measurement query that ends with success, one that fails, and a launch that clears the last measurement. -/
theorem witness_SensorDataHoldsTheReturnedMeasurement :
    (∃ t, step (respondedState .sensorData) = .next t ∧ State.resetNotNext (respondedState .sensorData) ∧
      (respondedState .sensorData).query = some .sensorData ∧ t.query = none ∧ t.err = .noError ∧
      t.rspLen.toNat ≤ 251 ∧ ∀ j, j ≤ 1 → ∃ status error b0 b1 b2 b3 more,
        Memory.readBytes t.rspData j (t.rspLen.toNat - j) = status :: error :: b0 :: b1 :: b2 :: b3 :: more) ∧
    (∃ t, step { armState with query := some .sensorData, inputs := [.fsm false .timeout] } = .next t ∧ t.query = none ∧
      t.err ≠ .noError) ∧
    (∃ t, exec (.getModelName none) { State.reset with sensorData := some ⟨0, 0, 7⟩ } = .next t ∧
      t.sensorData ≠ some ⟨0, 0, 7⟩) := by
  refine ⟨?_, ⟨_, rfl, rfl, nofun⟩, ⟨_, rfl, ?_⟩⟩
  · obtain ⟨t, h1, h2, h3, h4, h5⟩ := respondedState_step .sensorData
    refine ⟨t, h1, nofun, rfl, h2, h3, by omega, fun j hj => ?_⟩
    rw [h5 j (by omega)]
    match j, hj with
    | 0, _ => exact ⟨_, _, _, _, _, _, _, rfl⟩
    | 1, _ => exact ⟨_, _, _, _, _, _, _, rfl⟩
  · show (State.startExecute _).sensorData ≠ _
    unfold State.startExecute
    split <;> exact nofun

theorem witness_StatusFlagsAreIndependent : fallback .sensorData = .measurement ⟨0xFF, 0xFF, 0⟩ := rfl

/-- A report with no data, with one byte, and with 251; the parameters may determine the secondary code. -/
theorem witness_SlaveErrorReportEndsTheTransaction :
    waitState.tstate = .wait ∧ waitState.rxArmed = true ∧ waitState.rxWr = 0 ∧ waitState.rxbuf = [] ∧
      waitState.inbound = [] ∧ waitState.waitFail = false ∧ waitState.now - waitState.t0 < Config.session.timeout ∧
      ([] : List Byte).length ≤ 251 ∧ [(2 : Byte)].length ≤ 251 ∧ (zeros 251).length ≤ 251 ∧
      Memory.wf maxData waitState.rspData = true ∧ waitState.query = some .modelName :=
  ⟨rfl, rfl, rfl, rfl, rfl, rfl, Config.session.timeout_pos, by decide, by decide,
    Nat.le_of_eq (length_zeros _), rfl, rfl⟩

/-- Parameters under which a payload byte determines its code. -/
theorem witness_SlaveErrorReportEndsTheTransaction_code :
    ∃ k : Config, [(2 : Byte)][k.slaveErrPos]? = some 2 ∧ ∀ c', k.slaveErr c' = 2 ↔ c' = .invalidDataSize := by
  refine ⟨{ (default : Config) with
    slaveErrPos := 0
    slaveErr := fun c => match c with
      | .unknown => 0 | .invalidCommand => 1 | .invalidDataSize => 2
      | .invalidValue => 3 | .notPermitted => 4 | .operationFailed => 5 }, rfl, fun c => by cases c <;> decide⟩

theorem witness_SlaveErrorCompletesInEveryState :
    sendState.rxArmed = true ∧ sendState.tstate ≠ .wait ∧ State.reset.rxArmed = false ∧ State.reset.tstate ≠ .wait := by
  decide

theorem witness_BlockDoesNotReadTheClient :
    waitState.forgetClient = ({ waitState with query := none, dataFormatFetched := true } : State).forgetClient := rfl

theorem witness_SuccessfulTransactionDeliversTheResponse :
    let s : State :=
      { State.reset with
        inbound := encodeFrame Config.session 0x10 [0x2A]
        inputs := [.issue [0], .fsm true .timeout, .fsm true .timeout] ++ List.replicate 8 .deposit ++
          [.fsm true .completion] }
    Inv Config.session s ∧ s.tstate = .idle ∧ s.reqLen.toNat ≤ 251 ∧ [(0x2A : Byte)] ≠ [] ∧
      [(0x2A : Byte)].length ≤ 251 ∧ s.inbound = encodeFrame Config.session 0x10 [0x2A] ∧
      s.inputs = [.issue [0], .fsm true .timeout, .fsm true .timeout] ++
        List.replicate (7 + [(0x2A : Byte)].length) .deposit ++ [.fsm true .completion] :=
  ⟨{ inv_reset with }, rfl, by decide, by decide, by decide, rfl, rfl⟩

end Sys2Proof.Tests
end

section
/-! PROOFS of the family 00_scope.md: the block does not read the client's fields (R4), what a run shows only grows (R10,
R32, R50), a step runs the decoded instruction (R8, R9). -/

namespace Sys2Proof.Machine

/-! ## Setting the client's fields aside commutes with the block's operations

`forgetClient_f : (f s).forgetClient = f s.forgetClient` says at once that `f` neither reads the client's fields nor writes
them. `openQuery`, `deliver` and `resetInput` write them: those operations have laws of another form. -/

@[simp] theorem forgetClient_forgetClient (s : State) : s.forgetClient.forgetClient = s.forgetClient := rfl

@[simp] theorem tstate_forgetClient (s : State) : s.forgetClient.tstate = s.tstate := rfl

@[simp] theorem inputs_forgetClient (s : State) : s.forgetClient.inputs = s.inputs := rfl

theorem forgetClient_acceptStart (s : State) (op : UnitOp) :
    (s.acceptStart op).forgetClient = s.forgetClient.acceptStart op := rfl

theorem forgetClient_writeRequest (k : Config) (q : Query) (index : Byte) (s : State) :
    (s.writeRequest k q index).forgetClient = s.forgetClient.writeRequest k q index := rfl

theorem forgetClient_hostIscomplete (s : State) :
    s.hostIscomplete.forgetClient = s.forgetClient.hostIscomplete := rfl

theorem forgetClient_hostEncode (k : Config) (s : State) :
    (s.hostEncode k).forgetClient = s.forgetClient.hostEncode k :=
  apply_ite State.forgetClient (maxData < s.reqLen.toNat) _ _

theorem forgetClient_startExecute (s : State) : s.startExecute.forgetClient = s.forgetClient.startExecute :=
  apply_ite State.forgetClient (maxData < s.reqLen.toNat) _ _

theorem forgetClient_decodeResponse (k : Config) (s : State) :
    (s.decodeResponse k).forgetClient = s.forgetClient.decodeResponse k := by
  have hb : s.forgetClient.rxbuf = s.rxbuf := rfl
  unfold State.decodeResponse
  rw [hb]
  cases checkFrame k s.rxbuf with
  | some e => rfl
  | none => exact apply_ite State.forgetClient (lengthByte s.rxbuf ≤ maxData) _ _

theorem forgetClient_hostDecode (k : Config) (s : State) :
    (s.hostDecode k).forgetClient = s.forgetClient.hostDecode k := by
  unfold State.hostDecode
  rw [← forgetClient_decodeResponse]
  rfl

theorem forgetClient_armStep (ok : Bool) (s : State) : (s.armStep ok).forgetClient = s.forgetClient.armStep ok := by
  cases ok <;> rfl

theorem forgetClient_sendStep (k : Config) (ok : Bool) (s : State) :
    (s.sendStep k ok).forgetClient = s.forgetClient.sendStep k ok := by
  cases ok <;> rfl

theorem forgetClient_takeExit (k : Config) (s : State) (e : WaitExit) :
    (s.takeExit k e).forgetClient = s.forgetClient.takeExit k e := by
  cases e with
  | completion => exact forgetClient_hostDecode k s.abortReceive
  | timeout => rfl
  | waitFailure => rfl

theorem forgetClient_waitStep (k : Config) (pick : WaitExit) (s : State) :
    (s.waitStep k pick).forgetClient = s.forgetClient.waitStep k pick := by
  have hx : s.forgetClient.chosenExit k pick = s.chosenExit k pick := rfl
  unfold State.waitStep
  rw [hx]
  cases s.chosenExit k pick with
  | none => rfl
  | some e => exact forgetClient_takeExit k s e

/-- No step of the block reads or writes a field of the client (R4). -/
theorem forgetClient_blockStep (k : Config) (ok : Bool) (pick : WaitExit) (s : State) :
    (s.blockStep k ok pick).forgetClient = s.forgetClient.blockStep k ok pick := by
  unfold State.blockStep
  rw [tstate_forgetClient]
  cases s.tstate with
  | idle => rfl
  | arm => exact forgetClient_armStep ok s
  | send => exact forgetClient_sendStep k ok s
  | wait => exact forgetClient_waitStep k pick s

theorem forgetClient_depositByte (s : State) (v : Byte) :
    (s.depositByte v).forgetClient = s.forgetClient.depositByte v :=
  apply_ite State.forgetClient (s.rxArmed = true) _ _

theorem forgetClient_depositBytes (s : State) (bs : List Byte) :
    (s.depositBytes bs).forgetClient = s.forgetClient.depositBytes bs := by
  induction bs generalizing s with
  | nil => rfl
  | cons b bs ih => rw [State.depositBytes, State.depositBytes, ih, forgetClient_depositByte]

theorem forgetClient_depositAll (s : State) : s.depositAll.forgetClient = s.forgetClient.depositAll :=
  forgetClient_depositBytes { s with inbound := [] } s.inbound

theorem forgetClient_depositNext (s : State) : s.depositNext.forgetClient = s.forgetClient.depositNext := by
  have hi : s.forgetClient.inbound = s.inbound := rfl
  unfold State.depositNext
  rw [hi]
  cases s.inbound with
  | nil => rfl
  | cons v rest => exact forgetClient_depositByte { s with inbound := rest } v

/-! ## The client's part of an FSM step -/

theorem forgetClient_deliver (k : Config) (s : State) : (s.deliver k).forgetClient = s.forgetClient := by
  rw [deliver_frame]
  rfl

/-- Up to the client's fields, an FSM step is the block's step: the client only adds its delivery (R190). -/
theorem forgetClient_fsmStep (k : Config) (ok : Bool) (pick : WaitExit) (s : State) :
    (s.fsmStep k ok pick).forgetClient = s.forgetClient.blockStep k ok pick := by
  rw [← forgetClient_blockStep]
  exact fsmStep_field State.forgetClient k (forgetClient_deliver k) ok pick s

/-! ## Operations that ignore the client -/

/-- `f` gives the same state up to the client's fields, whatever those fields hold (R4). -/
def IgnoresClient (f : State → State) : Prop := ∀ s : State, (f s).forgetClient = (f s.forgetClient).forgetClient

theorem id_ignoresClient : IgnoresClient id := fun _ => rfl

/-- An operation of the block alone ignores the client. -/
theorem IgnoresClient.of_commutes {f : State → State} (h : ∀ s : State, (f s).forgetClient = f s.forgetClient) :
    IgnoresClient f := fun s => by rw [← h s, forgetClient_forgetClient]

theorem IgnoresClient.comp {f g : State → State} (hg : IgnoresClient g) (hf : IgnoresClient f) :
    IgnoresClient (g ∘ f) := by
  intro s
  calc (g (f s)).forgetClient
      = (g (f s).forgetClient).forgetClient := hg (f s)
    _ = (g (f s.forgetClient).forgetClient).forgetClient := by rw [hf s]
    _ = (g (f s.forgetClient)).forgetClient := (hg (f s.forgetClient)).symm

/-- The FSM's state is the block's, so a choice by it ignores the client. -/
theorem IgnoresClient.ite_tstate {f g : State → State} (x : TState) (hf : IgnoresClient f) (hg : IgnoresClient g) :
    IgnoresClient (fun s => if s.tstate = x then f s else g s) := by
  intro s
  show (if s.tstate = x then f s else g s).forgetClient =
    (if s.forgetClient.tstate = x then f s.forgetClient else g s.forgetClient).forgetClient
  rw [tstate_forgetClient]
  split
  · exact hf s
  · exact hg s

theorem startUnit_ignoresClient (op : UnitOp) {body : State → State} (h : IgnoresClient body) :
    IgnoresClient (startUnit op body) :=
  .ite_tstate .idle (h.comp (.of_commutes (forgetClient_acceptStart · op))) id_ignoresClient

theorem openQuery_ignoresClient (q : Query) : IgnoresClient (State.openQuery q) := fun _ => rfl

theorem launch_ignoresClient (k : Config) (q : Query) (index : Option Byte) :
    IgnoresClient (State.launch k q index) :=
  startUnit_ignoresClient .execute ((IgnoresClient.of_commutes forgetClient_startExecute).comp
    ((openQuery_ignoresClient q).comp (.of_commutes (forgetClient_writeRequest k q _))))

theorem fsmStep_ignoresClient (k : Config) (ok : Bool) (pick : WaitExit) : IgnoresClient (State.fsmStep k ok pick) :=
  fun s => by rw [forgetClient_fsmStep, forgetClient_fsmStep, forgetClient_forgetClient]

theorem fsmFree_ignoresClient (k : Config) : IgnoresClient (State.fsmFree k) :=
  .ite_tstate .idle id_ignoresClient (fun s => fsmStep_ignoresClient k _ _ s.draw)

theorem slaveReport_ignoresClient (k : Config) (data : List Byte) : IgnoresClient (State.slaveReport k data) :=
  (IgnoresClient.ite_tstate .wait (fsmFree_ignoresClient k) id_ignoresClient).comp
    (.of_commutes fun s =>
      forgetClient_depositAll { s with inbound := s.inbound ++ encodeFrame k k.cmdSlaveError data })

/-- The reset input gives the client's fields values numbered by the client's own draws, and the block's fields none of
them (R45, log 13). -/
theorem resetInput_ignoresClient : IgnoresClient State.resetInput := fun _ => rfl

/-! ## Every step ignores the client -/

/-- `f` answers the same kind of outcome, and the same next state up to the client's fields, whatever those fields hold
(R4). -/
def OutcomeIgnoresClient (f : State → Host.Outcome State Fault Refusal) : Prop :=
  ∀ s : State, forgetClientOutcome (f s) = forgetClientOutcome (f s.forgetClient)

theorem IgnoresClient.next {f : State → State} (h : IgnoresClient f) : OutcomeIgnoresClient (fun s => .next (f s)) :=
  fun s => congrArg Host.Outcome.next (h s)

theorem OutcomeIgnoresClient.ite_tstate {f g : State → Host.Outcome State Fault Refusal} (x : TState)
    (hf : OutcomeIgnoresClient f) (hg : OutcomeIgnoresClient g) :
    OutcomeIgnoresClient (fun s => if s.tstate = x then f s else g s) := by
  intro s
  show forgetClientOutcome (if s.tstate = x then f s else g s) =
    forgetClientOutcome (if s.forgetClient.tstate = x then f s.forgetClient else g s.forgetClient)
  rw [tstate_forgetClient]
  split
  · exact hf s
  · exact hg s

theorem hostStore_ignoresClient (v : Byte) (target : WriteTarget) :
    OutcomeIgnoresClient (fun s => s.hostStore v target) := by
  intro s
  cases target with
  | reqCmd => rfl
  | reqLen => rfl
  | _ => simp only [State.hostStore]; split <;> rfl

theorem hostWrite_ignoresClient (target : WriteTarget) (v : Byte) :
    OutcomeIgnoresClient (fun s => s.hostWrite target v) :=
  .ite_tstate .idle (hostStore_ignoresClient v target) id_ignoresClient.next

/-- A window read of a buffer that is not the client's. -/
theorem windowRead_ignoresClient (space : Space) (depth a : Nat) {buffer : State → Memory}
    (hb : ∀ s : State, buffer s.forgetClient = buffer s) :
    OutcomeIgnoresClient (fun s => s.windowRead space (buffer s) depth a) := by
  refine .ite_tstate .idle (fun s => ?_) (fun _ => rfl)
  rw [hb]
  split <;> rfl

theorem hostRead_ignoresClient (target : ReadTarget) : OutcomeIgnoresClient (fun s => s.hostRead target) := by
  cases target with
  | rspData i =>
    intro s
    simp only [State.hostRead]
    split <;> rfl
  | txbuf a => exact windowRead_ignoresClient .txbuf txDepth a (fun _ => rfl)
  | rxbuf a => exact windowRead_ignoresClient .rxbuf rxDepth a (fun _ => rfl)
  | _ => exact fun _ => rfl

theorem environment_ignoresClient (k : Config) (m : Move) : OutcomeIgnoresClient (fun s => s.environment k m) := by
  cases m with
  | write target v => exact hostWrite_ignoresClient target v
  | read target => exact hostRead_ignoresClient target
  | fsm ok pick => exact (fsmStep_ignoresClient k ok pick).next
  | deposit => exact (IgnoresClient.of_commutes forgetClient_depositNext).next
  | reset => exact resetInput_ignoresClient.next
  | _ => exact fun _ => rfl

theorem exec_ignoresClient (i : Instr) : OutcomeIgnoresClient (exec i) := by
  cases i with
  | execute => exact (startUnit_ignoresClient _ (.of_commutes forgetClient_startExecute)).next
  | encode => exact (startUnit_ignoresClient _ (.of_commutes (forgetClient_hostEncode _))).next
  | decode => exact (startUnit_ignoresClient _ (.of_commutes (forgetClient_hostDecode _))).next
  | iscomplete => exact (startUnit_ignoresClient _ (.of_commutes forgetClient_hostIscomplete)).next
  | slaveError data => exact (slaveReport_ignoresClient _ data).next
  | _ => exact (launch_ignoresClient _ _ _).next

theorem runIssued_ignoresClient (bytes : List Byte) : OutcomeIgnoresClient (runIssued bytes) := by
  intro s
  unfold runIssued
  split
  · exact exec_ignoresClient _ s
  · rfl

theorem step_ignoresClient : OutcomeIgnoresClient step := by
  intro s
  unfold step
  rw [inputs_forgetClient]
  split
  · exact (fsmFree_ignoresClient _).next s
  · exact runIssued_ignoresClient _ { s with inputs := _ }
  · exact environment_ignoresClient _ _ { s with inputs := _ }

/-- Settles O45: both steps agree with the step of the one state in which the client's fields are set aside. -/
theorem blockDoesNotReadTheClient : Obligations.BlockDoesNotReadTheClient := by
  intro s s' h
  calc forgetClientOutcome (step s)
      = forgetClientOutcome (step s.forgetClient) := step_ignoresClient s
    _ = forgetClientOutcome (step s'.forgetClient) := by rw [h]
    _ = forgetClientOutcome (step s') := (step_ignoresClient s').symm

/-! ## What a run shows only grows -/

/-- The trace and the outbound stream of `t` extend those of `s`, and `t` is not earlier (R10, R32, R50). -/
def HistoryExtends (s t : State) : Prop := s.trace <+: t.trace ∧ s.outbound <+: t.outbound ∧ s.now ≤ t.now

/-- A state with the trace, the outbound stream and the clock of `s` extends the history of `s`. -/
theorem HistoryExtends.of_eq {s t : State} (ht : t.trace = s.trace) (ho : t.outbound = s.outbound)
    (hn : t.now = s.now) : HistoryExtends s t :=
  ⟨ht ▸ List.prefix_rfl, ho ▸ List.prefix_rfl, hn ▸ Nat.le_refl _⟩

/-- The block's step records events at the trace's end, and sends bytes at the stream's end (R10, R154, R161). -/
theorem blockStep_historyExtends (k : Config) (ok : Bool) (pick : WaitExit) (s : State) :
    HistoryExtends s (s.blockStep k ok pick) := by
  have hb := blockStep_cases k ok pick s
  generalize s.blockStep k ok pick = t at *
  cases hb with
  | idle => exact .of_eq rfl rfl rfl
  | armed => exact ⟨List.prefix_append _ _, List.prefix_rfl, Nat.le_refl _⟩
  | armFailed => exact ⟨List.prefix_append _ _, List.prefix_rfl, Nat.le_refl _⟩
  | sent => rw [sendDone_frame]; exact ⟨List.prefix_append _ _, List.prefix_append _ _, Nat.le_refl _⟩
  | sendFailed =>
    rw [sendFailed_frame]
    refine ⟨?_, List.prefix_append _ _, Nat.le_refl _⟩
    exact (List.prefix_append _ _).trans (List.prefix_append _ _)
  | waits => exact .of_eq rfl rfl rfl
  | ends e => rw [takeExit_frame]; exact ⟨List.prefix_append _ _, List.prefix_rfl, Nat.le_refl _⟩

theorem fsmStep_historyExtends (k : Config) (ok : Bool) (pick : WaitExit) (s : State) :
    HistoryExtends s (s.fsmStep k ok pick) := by
  unfold HistoryExtends
  rw [fsmStep_field State.trace k (State.deliver_trace k), fsmStep_field State.outbound k (State.deliver_outbound k),
    fsmStep_field State.now k (State.deliver_now k)]
  exact blockStep_historyExtends k ok pick s

theorem slaveReport_historyExtends (k : Config) (s : State) (data : List Byte) :
    HistoryExtends s (s.slaveReport k data) := by
  obtain ⟨u, hu, -, ⟨-, h⟩ | ⟨-, h⟩⟩ := slaveReport_cases k s data <;> rw [h]
  · rw [hu]; exact .of_eq rfl rfl rfl
  · have hf := fsmStep_historyExtends k (Config.freeAnswer u.draws) (Config.freeExit u.draws) u.draw
    rw [hu] at hf ⊢
    exact hf

/-- Of all a step can do, the FSM's steps, a report's poll and the clock extend the history; the rest leaves it. -/
theorem Effect.historyExtends {k : Config} {s t : State} (h : Effect k s t) : HistoryExtends s t := by
  cases h with
  | encode => unfold State.hostEncode; split <;> exact .of_eq rfl rfl rfl
  | decode =>
    simp only [State.hostDecode]
    rw [decodeResponse_frame]
    exact .of_eq rfl rfl rfl
  | execute => unfold State.startExecute; split <;> exact .of_eq rfl rfl rfl
  | launch => unfold State.startExecute; split <;> exact .of_eq rfl rfl rfl
  | fsm ok pick => exact fsmStep_historyExtends k ok pick s
  | fsmFree => exact fsmStep_historyExtends k _ _ s.draw
  | report data => exact slaveReport_historyExtends k s data
  | deposit =>
    rcases depositNext_cases s with ⟨-, he⟩ | ⟨v, q, -, he⟩ <;> rw [he]
    · exact .of_eq rfl rfl rfl
    · rw [depositByte_frame]; exact .of_eq rfl rfl rfl
  | clock n hn => exact ⟨List.prefix_rfl, List.prefix_rfl, hn⟩
  | _ => exact .of_eq rfl rfl rfl

/-- Settles O29: every effect of a step extends the history, and the reset input does not touch it (R45, log 13). -/
theorem historyOnlyGrows : Obligations.HistoryOnlyGrows := by
  intro s s' h
  obtain ⟨rest, he | ⟨-, rfl⟩⟩ := step_effect h
  · exact he.historyExtends
  · exact HistoryExtends.of_eq (s := s) rfl rfl rfl

/-! ## A step runs the decoded instruction -/

theorem runIssued_of_decode {bytes : List Byte} {i : Instr} (h : decode Config.session bytes = .ok i) (s : State) :
    runIssued bytes s = exec i s := by
  unfold runIssued
  rw [h]

theorem step_issue {s : State} {bytes : List Byte} {rest : List Move} (h : s.inputs = .issue bytes :: rest) :
    step s = runIssued bytes { s with inputs := rest } := by
  unfold step
  rw [h]

/-- The instruction of a table word is the one its bytes decode to (log 3). -/
theorem decode_tableBytes {nbits w : Nat} {i : Instr} (h : decodeTableWord nbits w = some i) :
    decode Config.session (tableBytes nbits w) = .ok i := by
  unfold decodeTableWord at h
  split at h
  · rw [‹decode _ _ = _›, Option.some.inj h]
  · cases h

/-- Settles O5: presented words are taken off the schedule and run, and `withFetchWord` presents a table word's bytes,
whose removal gives the state back. -/
theorem stepRunsTheDecodedInstruction : Obligations.StepRunsTheDecodedInstruction := by
  constructor
  · intro s bytes rest i hs hd
    rw [step_issue hs, runIssued_of_decode hd]
  · intro s nbits w i hd
    have hs : (s.withFetchWord nbits w).inputs = .issue (tableBytes nbits w) :: s.inputs := rfl
    rw [step_issue hs, runIssued_of_decode (decode_tableBytes hd)]
    rfl

end Sys2Proof.Machine
end

section
/-! PROOFS of the family 10_state.md: every step keeps the invariant (R22, R28, R29, R32, R33), what a step of a busy block
leaves alone (R21, R27, R31, R40), the host's, the transport's and the clock's inputs (R33, R40), reset (R45), what the client
holds at a transaction's end (R35). -/

namespace Sys2Proof.Machine

/-! ## Taking a move off the schedule -/

/-- A move other than `issue` acts on the state it was taken from. -/
theorem step_environment {s : State} {m : Move} {rest : List Move} (h : s.inputs = m :: rest)
    (hm : ∀ bytes, m ≠ .issue bytes) :
    step s = ({ s with inputs := rest } : State).environment Config.session m := by
  unfold step
  rw [h]
  cases m with
  | issue bytes => exact absurd rfl (hm bytes)
  | _ => rfl

/-! ## The invariant, by the state of the FSM -/

/-- What the invariant says of every state, whatever its `TSTATE`: canonical buffers (R50), `TX_COUNT` in its range (R29), no
reserved code in `ERR` (R117, R235). -/
structure Shaped (s : State) : Prop where
  reqData_wf : Memory.wf maxData s.reqData = true
  rspData_wf : Memory.wf maxData s.rspData = true
  txbuf_wf : Memory.wf txDepth s.txbuf = true
  rxbuf_wf : Memory.wf rxDepth s.rxbuf = true
  count_range : s.txCount = 0 ∨ (frameOverhead ≤ s.txCount.toNat ∧ s.txCount.toNat ≤ txDepth)
  err_not_reserved : s.err ≠ .invalidVersion ∧ s.err ≠ .unknownCommand

theorem Inv.shaped {k : Config} {s : State} (h : Inv k s) : Shaped s := { h with }

theorem Shaped.acceptStart {s : State} (hs : Shaped s) (op : UnitOp) : Shaped (s.acceptStart op) :=
  { hs with reqData_wf := hs.reqData_wf }

theorem Shaped.abortReceive {s : State} (hs : Shaped s) : Shaped s.abortReceive :=
  { hs with reqData_wf := hs.reqData_wf }

theorem Shaped.openQuery {s : State} (hs : Shaped s) (q : Query) : Shaped (State.openQuery q s) :=
  { hs with reqData_wf := hs.reqData_wf }

/-- An idle state meets the invariant when its buffers do, the path is unarmed, no query waits and a failure left no packet. -/
theorem Inv.of_idle {k : Config} {t : State} (hs : Shaped t) (ht : t.tstate = .idle) (ha : t.rxArmed = false)
    (hq : t.query = none)
    (hf : t.done = true → (t.opsel = .execute ∨ t.opsel = .decode) → t.err ≠ .noError → t.err ≠ .slaveReportedError →
      t.rspCmd = 0 ∧ t.rspLen = 0 ∧ t.rspData = []) : Inv k t :=
  { hs with
    armed_iff := by simp [ha, ht]
    busy_len := fun hb => absurd ht hb
    busy_op := fun hb => absurd ht hb
    busy_not_done := fun hb => absurd ht hb
    deposits_below := by simp [ha]
    wait_frame := by simp [ht]
    wait_open := by simp [ht]
    query_busy := fun h => absurd hq h
    failure_clean := hf }

/-- A state in ARM meets the invariant when its buffers do, the path is unarmed and an admitted EXECUTE is under way. -/
theorem Inv.of_arm {k : Config} {t : State} (hs : Shaped t) (ht : t.tstate = .arm) (ha : t.rxArmed = false)
    (hl : t.reqLen.toNat ≤ maxData) (ho : t.opsel = .execute) (hd : t.done = false) : Inv k t :=
  { hs with
    armed_iff := by simp [ha, ht]
    busy_len := fun _ => hl
    busy_op := fun _ => ho
    busy_not_done := fun _ => hd
    deposits_below := by simp [ha]
    wait_frame := by simp [ht]
    wait_open := by simp [ht]
    query_busy := by simp [ht]
    failure_clean := by simp [hd] }

section
variable {k : Config} {s : State} (h : Inv k s)
include h

theorem Inv.unarmed_of_idle (hi : s.tstate = .idle) : s.rxArmed = false := by
  simpa [hi] using h.armed_iff

theorem Inv.unarmed_of_arm (hi : s.tstate = .arm) : s.rxArmed = false := by
  simpa [hi] using h.armed_iff

theorem Inv.no_query_of_idle (hi : s.tstate = .idle) : s.query = none := by
  cases hq : s.query with
  | none => rfl
  | some q => exact absurd hi (h.query_busy (by rw [hq]; nofun))

end

/-- The invariant reads one field of the client: a query waits only while its transaction runs (R4, R190). -/
theorem inv_iff_forgetClient {k : Config} {s : State} :
    Inv k s ↔ Inv k s.forgetClient ∧ (s.query ≠ none → s.tstate ≠ .idle) :=
  ⟨fun h => ⟨{ h with query_busy := nofun }, h.query_busy⟩, fun ⟨h, hq⟩ => { h with query_busy := hq }⟩

/-- The invariant does not read `t_wait_fail`, the streams, the schedule, the port's data or the draw counter. -/
theorem Inv.of_unread {k : Config} {s : State} (h : Inv k s) {w : Bool} {o i : List Byte} {m : List Move} {v : BitVec 9}
    {n : Nat} : Inv k { s with waitFail := w, outbound := o, inbound := i, inputs := m, hostReadData := v, draws := n } :=
  { h with armed_iff := h.armed_iff }

/-- The failure exit, the path unarmed and the client not waiting, gives a state of the invariant (R240). -/
theorem failureExit_inv {k : Config} {s : State} {e : Status} (hs : Shaped s) (ha : s.rxArmed = false)
    (hq : s.query = none) (he : e ≠ .invalidVersion ∧ e ≠ .unknownCommand) : Inv k (s.failureExit e) :=
  .of_idle { hs with rspData_wf := rfl, err_not_reserved := he } rfl ha hq (fun _ _ _ _ => ⟨rfl, rfl, rfl⟩)

/-- DECODE, the path unarmed and the client not waiting, gives a state of the invariant (R115 to R122). -/
theorem hostDecode_inv {k : Config} {s : State} (hs : Shaped s) (ha : s.rxArmed = false) (hq : s.query = none) :
    Inv k (s.hostDecode k) := by
  have hwf := decodeResponse_wf k s hs.rspData_wf
  have herr := decodeResponse_err k s
  simp only [State.hostDecode]
  rw [decodeResponse_frame]
  refine .of_idle { hs with rspData_wf := hwf, err_not_reserved := ?_ } rfl ha hq (fun _ _ hn hr => ?_)
  · rcases herr with ⟨⟨e, hc, he⟩, -⟩ | ⟨-, he | he⟩
    · show (s.decodeResponse k).err ≠ _ ∧ _
      rcases checkFrame_some hc with rfl | rfl | rfl <;> simp [he]
    · simp [he]
    · simp [he]
  · rcases herr with ⟨-, hzero⟩ | ⟨-, he | he⟩
    · exact hzero
    · exact absurd he hn
    · exact absurd he hr

/-- ENCODE of an admitted request keeps the shape of the buffers (R29, R110). -/
theorem Shaped.encodeRequest {s : State} (hs : Shaped s) (k : Config) (hl : s.reqLen.toNat ≤ maxData) :
    Shaped (s.encodeRequest k) :=
  { hs with
    txbuf_wf := encodeRequest_wf k hl hs.txbuf_wf
    count_range := by
      have := encodeRequest_count k hl
      simp only [frameOverhead, headerSize, sopSize, verSize, cmdSize, lenSize, checksumSize, eopSize, txDepth, maxData]
        at *
      omega }

/-! ## The FSM keeps the invariant -/

/-- The block's step keeps the invariant while no query waits. -/
theorem blockStep_inv {k : Config} {s : State} (h : Inv k s) (hq : s.query = none) (ok : Bool) (pick : WaitExit) :
    Inv k (s.blockStep k ok pick) := by
  have hs := h.shaped
  have hb := blockStep_cases k ok pick s
  generalize s.blockStep k ok pick = t at *
  cases hb with
  | idle => exact h
  | armed ht =>
    have hbusy : s.tstate ≠ .idle := by simp [ht]
    exact
      { h with
        rxbuf_wf := rfl
        armed_iff := by simp
        busy_len := fun _ => h.busy_len hbusy
        busy_op := fun _ => h.busy_op hbusy
        busy_not_done := fun _ => h.busy_not_done hbusy
        deposits_below := fun _ => rfl
        wait_frame := nofun
        wait_open := nofun
        query_busy := fun _ => nofun }
  | armFailed ht =>
    exact failureExit_inv { hs with rxbuf_wf := rfl } (h.unarmed_of_arm ht) hq ⟨nofun, nofun⟩
  | sent ht =>
    have hbusy : s.tstate ≠ .idle := by simp [ht]
    have hl := h.busy_len hbusy
    have he := hs.encodeRequest k hl
    rw [sendDone_frame]
    exact
      { h with
        txbuf_wf := he.txbuf_wf
        count_range := he.count_range
        armed_iff := by simp [h.armed_iff, ht]
        busy_len := fun _ => hl
        busy_op := fun _ => h.busy_op hbusy
        busy_not_done := fun _ => h.busy_not_done hbusy
        wait_frame := fun _ => encodeRequest_txFrame k hl h.txbuf_wf
        wait_open := fun _ => Nat.le_refl _
        query_busy := fun _ => nofun }
  | sendFailed ht =>
    have he := hs.encodeRequest k (h.busy_len (by simp [ht]))
    rw [sendFailed_frame]
    exact .of_idle
      { hs with
        rspData_wf := rfl
        txbuf_wf := he.txbuf_wf
        count_range := he.count_range
        err_not_reserved := ⟨nofun, nofun⟩ } rfl rfl hq (fun _ _ _ _ => ⟨rfl, rfl, rfl⟩)
  | waits => exact h
  | ends e ht =>
    have ha := hs.abortReceive
    cases e with
    | completion => exact hostDecode_inv ha rfl hq
    | timeout => exact failureExit_inv ha rfl hq ⟨nofun, nofun⟩
    | waitFailure => exact failureExit_inv ha rfl hq ⟨nofun, nofun⟩

/-- An FSM step keeps the invariant: up to the client it is the block's step, and a query waits on only in a transaction that
goes on (R190). -/
theorem fsmStep_inv {k : Config} {s : State} (h : Inv k s) (ok : Bool) (pick : WaitExit) :
    Inv k (s.fsmStep k ok pick) := by
  rw [inv_iff_forgetClient, forgetClient_fsmStep]
  refine ⟨blockStep_inv (inv_iff_forgetClient.1 h).1 rfl ok pick, fun hq => ?_⟩
  rcases fsmStep_cases k ok pick s with ⟨he, hi | hb⟩ | ⟨he, -⟩
  · have hidle : s.blockStep k ok pick = s := by simp only [State.blockStep, hi]
    rw [he, hidle] at hq ⊢
    exact h.query_busy hq
  · rw [he]
    exact hb
  · rw [he] at hq
    exact absurd (State.deliver_query k _) hq

/-! ## The transport keeps the invariant -/

theorem depositByte_inv {k : Config} {s : State} (h : Inv k s) (v : Byte) : Inv k (s.depositByte v) := by
  unfold State.depositByte
  by_cases ha : s.rxArmed = true
  · have hd := h.deposits_below ha
    rw [if_pos ha]
    by_cases hr : s.rxWr < rxDepth
    · simp only [if_pos hr]
      refine { h with rxbuf_wf := Memory.wf_write h.rxbuf_wf v hr, deposits_below := fun _ => ?_ }
      exact Memory.wfFrom_write (Memory.wfFrom_le hd (by simp only; omega)) v (Nat.zero_le _) (by simp only; omega)
    · simp only [if_neg hr]
      exact { h with deposits_below := fun _ => Memory.wfFrom_le hd (by simp only; omega) }
  · rw [if_neg ha]
    exact h

theorem depositNext_inv {k : Config} {s : State} (h : Inv k s) : Inv k s.depositNext := by
  rcases depositNext_cases s with ⟨-, he⟩ | ⟨v, q, -, he⟩ <;> rw [he]
  · exact h
  · exact depositByte_inv h.of_unread v

/-- The bytes of a slave-error report have been sent and everything on the inbound stream deposited (R201, log 19). -/
def State.received (k : Config) (s : State) (data : List Byte) : State :=
  ({ s with inbound := [] } : State).depositBytes (s.inbound ++ encodeFrame k k.cmdSlaveError data)

/-- Reception touches the inbound stream, `RXBUF` and `RX_WR` only (R33). -/
theorem received_frame (k : Config) (s : State) (data : List Byte) :
    s.received k data =
      { s with inbound := [], rxbuf := (s.received k data).rxbuf, rxWr := (s.received k data).rxWr } :=
  depositBytes_frame _ _

/-- The sensor's report is the reception of its bytes, and in WAIT one poll more (R201, log 19). -/
theorem slaveReport_eq (k : Config) (s : State) (data : List Byte) :
    s.slaveReport k data = if s.tstate = .wait then (s.received k data).fsmFree k else s.received k data := by
  have ht : (s.received k data).tstate = s.tstate := by rw [received_frame]
  rw [← ht]
  rfl

theorem fsmFree_inv {k : Config} {s : State} (h : Inv k s) : Inv k (s.fsmFree k) := by
  unfold State.fsmFree
  split
  · exact h
  · exact fsmStep_inv h.of_unread _ _

theorem slaveReport_inv {k : Config} {s : State} (h : Inv k s) (data : List Byte) : Inv k (s.slaveReport k data) := by
  have hd : Inv k (s.received k data) :=
    depositBytes_induction (P := Inv k) (fun _ v hu => depositByte_inv hu v) h.of_unread _
  rw [slaveReport_eq]
  split
  · exact fsmFree_inv hd
  · exact hd

/-! ## Every step keeps the invariant -/

/-- A START of EXECUTE in a state whose buffers are in shape: rejected through the failure exit, or ARM (R151). -/
theorem startExecute_inv {k : Config} {s : State} (hs : Shaped s) (ha : s.rxArmed = false) (ho : s.opsel = .execute)
    (hd : s.done = false) (hq : maxData < s.reqLen.toNat → s.query = none) : Inv k s.startExecute := by
  unfold State.startExecute
  by_cases hl : maxData < s.reqLen.toNat
  · rw [if_pos hl]
    exact failureExit_inv hs ha (hq hl) ⟨nofun, nofun⟩
  · rw [if_neg hl]
    exact .of_arm { hs with rspData_wf := hs.rspData_wf } rfl ha (Nat.le_of_not_lt hl) ho hd

/-- A query's request is in shape, and of one byte at most (R190). -/
theorem Shaped.writeRequest {s : State} (hs : Shaped s) (k : Config) (q : Query) (index : Byte) :
    Shaped (s.writeRequest k q index) :=
  { hs with
    reqData_wf := by
      unfold State.writeRequest
      by_cases hi : k.hasIndex q = true
      · simp only [if_pos hi]
        exact Memory.wf_write hs.reqData_wf index (by decide)
      · simp only [if_neg hi]
        exact hs.reqData_wf }

theorem writeRequest_reqLen_le (k : Config) (q : Query) (index : Byte) (s : State) :
    (s.writeRequest k q index).reqLen.toNat ≤ maxData := by
  show (if k.hasIndex q = true then (1 : Byte) else 0).toNat ≤ 251
  split <;> decide

/-- Host-started ENCODE keeps the invariant (R110, R111, R130). -/
theorem hostEncode_inv {k : Config} {s : State} (hs : Shaped s) (ha : s.rxArmed = false) (hq : s.query = none)
    (ho : s.opsel = .encode) : Inv k (s.hostEncode k) := by
  unfold State.hostEncode
  by_cases hl : maxData < s.reqLen.toNat
  · rw [if_pos hl]
    exact .of_idle { hs with err_not_reserved := ⟨nofun, nofun⟩ } rfl ha hq (by simp [ho])
  · have he := hs.encodeRequest k (Nat.le_of_not_lt hl)
    rw [if_neg hl]
    exact .of_idle { he with err_not_reserved := ⟨nofun, nofun⟩ } rfl ha hq (by simp)

/-- Host writes to an idle block, each inside its array, keep the invariant (R21, R40, R50). -/
theorem Inv.of_hostStore {k : Config} {s : State} (h : Inv k s) (hi : s.tstate = .idle) {c l : Byte} {d tx rx : Memory}
    (hd : Memory.wf maxData d = true) (htx : Memory.wf txDepth tx = true) (hrx : Memory.wf rxDepth rx = true) :
    Inv k { s with reqCmd := c, reqLen := l, reqData := d, txbuf := tx, rxbuf := rx } :=
  .of_idle { h.shaped with reqData_wf := hd, txbuf_wf := htx, rxbuf_wf := hrx } hi (h.unarmed_of_idle hi)
    (h.no_query_of_idle hi) h.failure_clean

/-- Every effect of a step keeps the invariant. -/
theorem Effect.inv {k : Config} {s t : State} (he : Effect k s t) (h : Inv k s) : Inv k t := by
  have hs := h.shaped
  cases he with
  | nothing => exact h
  | encode hi => exact hostEncode_inv (hs.acceptStart _) (h.unarmed_of_idle hi) (h.no_query_of_idle hi) rfl
  | decode hi => exact hostDecode_inv (hs.acceptStart _) (h.unarmed_of_idle hi) (h.no_query_of_idle hi)
  | iscomplete hi =>
    exact .of_idle { hs with err_not_reserved := ⟨nofun, nofun⟩ } rfl (h.unarmed_of_idle hi) (h.no_query_of_idle hi)
      (fun _ _ hn => absurd rfl hn)
  | execute hi =>
    exact startExecute_inv (hs.acceptStart _) (h.unarmed_of_idle hi) rfl rfl (fun _ => h.no_query_of_idle hi)
  | launch q index hi =>
    exact startExecute_inv (((hs.acceptStart _).writeRequest k q index).openQuery q) (h.unarmed_of_idle hi) rfl rfl
      (fun hl => absurd hl (Nat.not_lt.2 (writeRequest_reqLen_le k q index (s.acceptStart .execute))))
  | fsm ok pick => exact fsmStep_inv h ok pick
  | fsmFree => exact fsmStep_inv h.of_unread _ _
  | report data => exact slaveReport_inv h data
  | writeReqCmd v hi => exact h.of_hostStore hi h.reqData_wf h.txbuf_wf h.rxbuf_wf
  | writeReqLen v hi => exact h.of_hostStore hi h.reqData_wf h.txbuf_wf h.rxbuf_wf
  | writeReqData i v hi hlt => exact h.of_hostStore hi (Memory.wf_write h.reqData_wf v hlt) h.txbuf_wf h.rxbuf_wf
  | writeTx i v hi hlt => exact h.of_hostStore hi h.reqData_wf (Memory.wf_write h.txbuf_wf v hlt) h.rxbuf_wf
  | writeRx i v hi hlt => exact h.of_hostStore hi h.reqData_wf h.txbuf_wf (Memory.wf_write h.rxbuf_wf v hlt)
  | read => exact h.of_unread
  | slaveSend => exact h.of_unread
  | deposit => exact depositNext_inv h
  | waitFail => exact h.of_unread
  | clock n hn => exact { h with wait_open := fun hw => Nat.le_trans (h.wait_open hw) hn }

/-- R45's values, and the free ones beside them, meet the invariant. -/
theorem resetInput_inv (k : Config) (s : State) : Inv k s.resetInput :=
  .of_idle
    { reqData_wf := Memory.wf_ofFn _ _
      rspData_wf := rfl
      txbuf_wf := Memory.wf_ofFn _ _
      rxbuf_wf := Memory.wf_ofFn _ _
      count_range := .inl rfl
      err_not_reserved := ⟨nofun, nofun⟩ } rfl rfl rfl nofun

/-- Settles O9: the reset input gives a state of the invariant, and every other effect of a step keeps it. -/
theorem everyStepKeepsTheInvariant : Obligations.EveryStepKeepsTheInvariant := by
  intro s s' h hstep
  obtain ⟨rest, he | ⟨-, rfl⟩⟩ := step_effect hstep
  · exact he.inv h.of_unread
  · exact resetInput_inv _ _

/-! ## START of a busy and of an idle block -/

theorem startUnit_of_busy {s : State} (h : s.tstate ≠ .idle) (op : UnitOp) (body : State → State) :
    startUnit op body s = s :=
  if_neg h

theorem startUnit_of_idle {s : State} (h : s.tstate = .idle) (op : UnitOp) (body : State → State) :
    startUnit op body s = body (s.acceptStart op) :=
  if_pos h

/-- A busy block ignores every instruction but the sensor's report (R40, R41, log 15). -/
theorem exec_of_busy {i : Instr} {s : State} (hi : ∀ data, i ≠ .slaveError data) (hb : s.tstate ≠ .idle) :
    exec i s = .next s := by
  cases i with
  | slaveError data => exact absurd rfl (hi data)
  | _ => exact congrArg Host.Outcome.next (startUnit_of_busy hb _ _)

theorem startExecute_opsel (s : State) : s.startExecute.opsel = s.opsel := by
  unfold State.startExecute
  split <;> rfl

/-- START of EXECUTE sets `DONE` exactly for a request it rejects (R151). -/
theorem startExecute_done {s : State} (hd : s.done = false) :
    s.startExecute.done = false ↔ s.reqLen.toNat ≤ maxData := by
  unfold State.startExecute
  split
  · rename_i hl
    simpa using hl
  · rename_i hl
    simpa [hd] using hl

theorem hostEncode_opsel (k : Config) (s : State) : (s.hostEncode k).opsel = s.opsel := by
  unfold State.hostEncode
  split <;> rfl

theorem hostEncode_done (k : Config) (s : State) : (s.hostEncode k).done = true := by
  unfold State.hostEncode
  split <;> rfl

theorem hostDecode_opsel (k : Config) (s : State) : (s.hostDecode k).opsel = s.opsel := by
  simp only [State.hostDecode]
  rw [decodeResponse_frame]
  rfl

/-- Settles O20: `startUnit` ignores the START of a busy block, and the START of an idle one latches the op select. -/
theorem startWhileBusyIsIgnored : Obligations.StartWhileBusyIsIgnored := by
  refine ⟨fun i s hi hb => exec_of_busy hi hb, fun i op s hmem hs => ?_⟩
  simp only [List.mem_cons, Prod.mk.injEq, List.not_mem_nil, or_false] at hmem
  rcases hmem with ⟨rfl, rfl⟩ | ⟨rfl, rfl⟩ | ⟨rfl, rfl⟩ | ⟨rfl, rfl⟩ <;>
    refine ⟨_, congrArg Host.Outcome.next (startUnit_of_idle hs _ _), ?_⟩
  · exact ⟨startExecute_opsel _, (startExecute_done rfl).trans (by simp)⟩
  · exact ⟨hostEncode_opsel _ _, by simp [hostEncode_done]⟩
  · exact ⟨hostDecode_opsel _ _, by simp [State.hostDecode]⟩
  · exact ⟨rfl, by simp [State.hostIscomplete]⟩

/-! ## A step of a busy block -/

/-- `u` is `s` but for what the environment moves: the receive buffer with its position, the clock, the level of `t_wait_fail`,
the inbound stream, the schedule, the port's data and the draw counter (R9, R33, R40). -/
def EnvironmentOnly (s u : State) : Prop :=
  u =
    { s with
      rxbuf := u.rxbuf, rxWr := u.rxWr, now := u.now, waitFail := u.waitFail, inbound := u.inbound, inputs := u.inputs
      hostReadData := u.hostReadData, draws := u.draws }

theorem received_environmentOnly (k : Config) (s : State) (data : List Byte) :
    EnvironmentOnly s (s.received k data) := by
  unfold EnvironmentOnly
  rw [received_frame]

theorem depositNext_environmentOnly (s : State) : EnvironmentOnly s s.depositNext := by
  unfold EnvironmentOnly
  rcases depositNext_cases s with ⟨-, he⟩ | ⟨v, q, -, he⟩ <;> rw [he]
  rw [depositByte_frame]

theorem EnvironmentOnly.draw {s u : State} (h : EnvironmentOnly s u) : EnvironmentOnly s u.draw :=
  congrArg State.draw h

theorem fsmFree_of_busy {s : State} (h : s.tstate ≠ .idle) (k : Config) :
    s.fsmFree k = s.draw.fsmStep k (Config.freeAnswer s.draws) (Config.freeExit s.draws) :=
  if_neg h

/-- All a step can do to a busy block: the environment moves, and the FSM takes a step or none (R40, R41, R170). -/
theorem Effect.busy_cases {k : Config} {s t : State} (he : Effect k s t) (hb : s.tstate ≠ .idle) :
    ∃ u, EnvironmentOnly s u ∧ (t = u ∨ ∃ ok pick, t = u.fsmStep k ok pick) := by
  cases he with
  | encode hi | decode hi | iscomplete hi | execute hi | launch _ _ hi => exact absurd hi hb
  | writeReqCmd _ hi | writeReqLen _ hi | writeReqData _ _ hi | writeTx _ _ hi | writeRx _ _ hi => exact absurd hi hb
  | fsm ok pick => exact ⟨s, rfl, .inr ⟨ok, pick, rfl⟩⟩
  | fsmFree => exact ⟨s.draw, rfl, .inr ⟨_, _, rfl⟩⟩
  | report data =>
    have hu := received_environmentOnly k s data
    have ht : (s.received k data).tstate ≠ .idle := by rwa [hu]
    rw [slaveReport_eq, fsmFree_of_busy ht]
    split
    · exact ⟨_, hu.draw, .inr ⟨_, _, rfl⟩⟩
    · exact ⟨_, hu, .inl rfl⟩
  | deposit => exact ⟨_, depositNext_environmentOnly s, .inl rfl⟩
  | _ =>
    refine ⟨_, ?_, .inl rfl⟩
    rfl

/-- From `s` to `t` the operands stay, and outside SEND the transmit buffer with its count (R21, R27, R64, R67). -/
def KeepsOperands (s t : State) : Prop :=
  t.reqCmd = s.reqCmd ∧ t.reqLen = s.reqLen ∧ t.reqData = s.reqData ∧ t.opsel = s.opsel ∧
    (s.tstate ≠ .send → t.txbuf = s.txbuf ∧ t.txCount = s.txCount)

theorem blockStep_keepsOperands (k : Config) (ok : Bool) (pick : WaitExit) (s : State) :
    KeepsOperands s (s.blockStep k ok pick) := by
  have hb := blockStep_cases k ok pick s
  generalize s.blockStep k ok pick = t at *
  cases hb with
  | sent h => rw [sendDone_frame]; exact ⟨rfl, rfl, rfl, rfl, fun hn => absurd h hn⟩
  | sendFailed h => rw [sendFailed_frame]; exact ⟨rfl, rfl, rfl, rfl, fun hn => absurd h hn⟩
  | ends e => rw [takeExit_frame]; exact ⟨rfl, rfl, rfl, rfl, fun _ => ⟨rfl, rfl⟩⟩
  | _ => exact ⟨rfl, rfl, rfl, rfl, fun _ => ⟨rfl, rfl⟩⟩

theorem fsmStep_keepsOperands (k : Config) (ok : Bool) (pick : WaitExit) (s : State) :
    KeepsOperands s (s.fsmStep k ok pick) := by
  have h := blockStep_keepsOperands k ok pick s.forgetClient
  rw [← forgetClient_fsmStep] at h
  exact h

/-- No step of a busy block changes its operands (R21, R40). -/
theorem Effect.keepsOperands {k : Config} {s t : State} (he : Effect k s t) (hb : s.tstate ≠ .idle) :
    KeepsOperands s t := by
  obtain ⟨u, hu, rfl | ⟨ok, pick, rfl⟩⟩ := he.busy_cases hb
  · rw [hu]
    exact ⟨rfl, rfl, rfl, rfl, fun _ => ⟨rfl, rfl⟩⟩
  · have h := fsmStep_keepsOperands k ok pick u
    generalize u.fsmStep k ok pick = t at *
    rw [hu] at h
    exact h

/-- From `s` to `t` the transaction ended, with `DONE` set, or it goes on with `ERR` and `RSP_*` as they were (R22, R23). -/
def EndsOrGoesOn (s t : State) : Prop :=
  (t.tstate = .idle ∧ t.done = true) ∨
    (t.tstate ≠ .idle ∧ t.err = s.err ∧ t.rspCmd = s.rspCmd ∧ t.rspLen = s.rspLen ∧ t.rspData = s.rspData)

theorem blockStep_endsOrGoesOn {k : Config} {s : State} (hb : s.tstate ≠ .idle) (ok : Bool) (pick : WaitExit) :
    EndsOrGoesOn s (s.blockStep k ok pick) := by
  have h := blockStep_cases k ok pick s
  generalize s.blockStep k ok pick = t at *
  cases h with
  | idle hi => exact absurd hi hb
  | armed => exact .inr ⟨nofun, rfl, rfl, rfl, rfl⟩
  | armFailed => exact .inl ⟨rfl, rfl⟩
  | sent => rw [sendDone_frame]; exact .inr ⟨nofun, rfl, rfl, rfl, rfl⟩
  | sendFailed => exact .inl ⟨rfl, rfl⟩
  | waits => exact .inr ⟨hb, rfl, rfl, rfl, rfl⟩
  | ends e =>
    obtain ⟨hi, hd, -, -⟩ := takeExit_fields k s e
    exact .inl ⟨hi, hd⟩

theorem fsmStep_endsOrGoesOn {k : Config} {s : State} (hb : s.tstate ≠ .idle) (ok : Bool) (pick : WaitExit) :
    EndsOrGoesOn s (s.fsmStep k ok pick) := by
  have h := blockStep_endsOrGoesOn (k := k) (s := s.forgetClient) hb ok pick
  rw [← forgetClient_fsmStep] at h
  exact h

/-- A step of a busy block ends its transaction or goes on with it (R22, R23). -/
theorem Effect.endsOrGoesOn {k : Config} {s t : State} (he : Effect k s t) (hb : s.tstate ≠ .idle) :
    EndsOrGoesOn s t := by
  obtain ⟨u, hu, rfl | ⟨ok, pick, rfl⟩⟩ := he.busy_cases hb
  · rw [hu]
    exact .inr ⟨hb, rfl, rfl, rfl, rfl⟩
  · have hub : u.tstate ≠ .idle := by rwa [hu]
    have h := fsmStep_endsOrGoesOn (k := k) hub ok pick
    generalize u.fsmStep k ok pick = t at *
    rw [hu] at h
    exact h

/-- Settles O26: the step ends the transaction or goes on with it, `OPSEL` stays EXECUTE, and the invariant of the next state
gives the rest. -/
theorem endOfTransactionIsClean : Obligations.EndOfTransactionIsClean := by
  intro s s' h hstep hr hb
  have h' := everyStepKeepsTheInvariant s s' h hstep
  obtain ⟨rest, he⟩ := step_effect_of_resetNotNext hstep hr
  obtain ⟨-, -, -, hop, -⟩ := he.keepsOperands hb
  rcases he.endsOrGoesOn hb with ⟨hi, hd⟩ | ⟨hbusy, herr, hcmd, hlen, hdata⟩
  · refine ⟨fun _ => ⟨hd, h'.unarmed_of_idle hi, fun hn hs => ?_⟩, fun hbusy => absurd hi hbusy⟩
    obtain ⟨hcmd, hlen, hdata⟩ := h'.failure_clean hd (.inl (hop.trans (h.busy_op hb))) hn hs
    exact ⟨hcmd, hlen, fun i => by rw [hdata]; rfl⟩
  · exact ⟨fun hi => absurd hi hbusy, fun _ => ⟨h'.busy_not_done hbusy, herr, hcmd, hlen, hdata⟩⟩

/-! ## Who changes `RXBUF` while the block is busy -/

/-- A host read changes the port's data and the draw counter only (R40, R55). -/
theorem windowRead_frame {s t : State} {space : Space} {buffer : Memory} {depth a : Nat}
    (h : s.windowRead space buffer depth a = .next t) :
    t = { s with hostReadData := t.hostReadData, draws := t.draws } := by
  unfold State.windowRead at h
  repeat' split at h
  all_goals cases h
  all_goals rfl

theorem hostRead_frame {s t : State} {target : ReadTarget} (h : s.hostRead target = .next t) :
    t = { s with hostReadData := t.hostReadData, draws := t.draws } := by
  cases target with
  | txbuf a | rxbuf a => exact windowRead_frame h
  | rspData i =>
    simp only [State.hostRead] at h
    split at h <;> cases h
    rfl
  | rspCmd | rspLen | txCount => cases h; rfl

/-- What `RXBUF` holds after a step of the busy state `s`: its old content; nothing, after step ARM; or the old content with
the deposits of a deposit move or of a slave-error report (R31, R33, R152). -/
inductive RxbufStep (s : State) : Memory → Prop
  | same : RxbufStep s s.rxbuf
  | cleared : s.tstate = .arm → (s.inputs = [] ∨ ∃ ok pick, s.inputs.head? = some (.fsm ok pick)) → RxbufStep s []
  | deposited (rest : List Move) (q bs : List Byte) :
      (s.inputs.head? = some .deposit ∨
        ∃ bytes data, s.inputs.head? = some (.issue bytes) ∧ decode Config.session bytes = .ok (.slaveError data)) →
      RxbufStep s (({ s with inputs := rest, inbound := q } : State).depositBytes bs).rxbuf

theorem RxbufStep.fsm {s : State} (hf : s.inputs = [] ∨ ∃ ok pick, s.inputs.head? = some (.fsm ok pick)) :
    RxbufStep s (if s.tstate = .arm then [] else s.rxbuf) := by
  split
  · exact .cleared ‹_› hf
  · exact .same

/-- The moves other than `issue`, seen from `RXBUF`. -/
theorem environment_rxbuf {k : Config} {s t : State} {m : Move} {rest : List Move} (hi : s.inputs = m :: rest)
    (hr : m ≠ .reset) (hb : s.tstate ≠ .idle) (h : ({ s with inputs := rest } : State).environment k m = .next t) :
    RxbufStep s t.rxbuf := by
  have hm : s.inputs.head? = some m := by rw [hi]; rfl
  cases m with
  | write target v =>
    rw [State.environment, State.hostWrite, if_neg hb] at h
    cases h
    exact .same
  | read target =>
    rw [hostRead_frame h]
    exact .same
  | fsm ok pick =>
    cases h
    rw [fsmStep_rxbuf]
    exact .fsm (.inr ⟨ok, pick, hm⟩)
  | deposit =>
    cases h
    rcases depositNext_cases { s with inputs := rest } with ⟨-, he⟩ | ⟨v, q, -, he⟩ <;> rw [he]
    · exact .same
    · exact .deposited rest q [v] (.inl hm)
  | reset => exact absurd rfl hr
  | issue bytes => cases h; exact .same
  | slaveSend | waitFail | tick | clockTo => cases h; exact .same

/-- The words of an instruction, seen from `RXBUF`: all but a report's are ignored (R40, R41). -/
theorem runIssued_rxbuf {s t : State} {bytes : List Byte} {rest : List Move} (hi : s.inputs = .issue bytes :: rest)
    (hb : s.tstate ≠ .idle) (h : runIssued bytes { s with inputs := rest } = .next t) : RxbufStep s t.rxbuf := by
  unfold runIssued at h
  split at h
  · rename_i i hd
    by_cases hdata : ∃ data, i = .slaveError data
    · obtain ⟨data, rfl⟩ := hdata
      cases h
      rw [slaveReport_rxbuf]
      exact .deposited rest [] _ (.inr ⟨bytes, data, by rw [hi]; rfl, hd⟩)
    · rw [exec_of_busy (s := { s with inputs := rest }) (fun data he => hdata ⟨data, he⟩) hb] at h
      cases h
      exact .same
  · cases h

theorem step_rxbuf {s t : State} (h : step s = .next t) (hr : s.resetNotNext) (hb : s.tstate ≠ .idle) :
    RxbufStep s t.rxbuf := by
  unfold step at h
  split at h
  · rename_i hi
    cases h
    rw [fsmFree_of_busy hb, fsmStep_rxbuf]
    exact .fsm (.inl hi)
  · exact runIssued_rxbuf ‹_› hb h
  · rename_i m rest _ hi
    exact environment_rxbuf hi (fun hm => hr (by rw [hi, hm]; rfl)) hb h

/-- Settles O31: the operands by the effects of a step, `RXBUF` by the moves. -/
theorem operandsAreStableWhileBusy : Obligations.OperandsAreStableWhileBusy := by
  intro s s' hstep hr hb
  obtain ⟨rest, he⟩ := step_effect_of_resetNotNext hstep hr
  obtain ⟨hcmd, hlen, hdata, hop, htx⟩ := he.keepsOperands hb
  have hrx := step_rxbuf hstep hr hb
  generalize s'.rxbuf = m at *
  refine ⟨hcmd, hlen, hdata, hop, htx, fun hs hnd hni => ?_, fun h hs a ha => ?_, fun h hs hne hnf => ?_⟩
  · cases hrx with
    | same => rfl
    | cleared ht => simp [ht] at hs
    | deposited rest q bs hm =>
      rcases hm with hm | ⟨bytes, data, hm, hd⟩
      · exact absurd hm hnd
      · exact absurd hd (hni bytes data hm)
  · cases hrx with
    | same => rfl
    | cleared ht => simp [ht] at hs
    | deposited rest q bs => exact depositBytes_below (s := { s with inputs := rest, inbound := q }) h.rxbuf_wf bs ha
  · cases hrx with
    | same => rfl
    | cleared _ hf =>
      rcases hf with hf | ⟨ok, pick, hf⟩
      · exact absurd hf hne
      · exact absurd hf (hnf ok pick)
    | deposited rest q bs =>
      rw [depositBytes_unarmed (s := { s with inputs := rest, inbound := q }) (h.unarmed_of_arm hs)]

/-! ## The ports -/

/-- Settles O32: the step is `depositNext`, and what lands reads back (R55). -/
theorem depositLandsAtThePosition : Obligations.DepositLandsAtThePosition := by
  intro s v q rest hi hq hwf
  have hstep : step s = .next (({ s with inputs := rest, inbound := q } : State).depositByte v) := by
    rw [step_environment hi nofun, State.environment, State.depositNext, hq]
  refine ⟨fun ha => ?_, fun ha => ?_⟩
  · refine ⟨_, hstep, ?_, fun a => ?_⟩ <;> rw [State.depositByte, if_pos ha]
    by_cases hr : s.rxWr < rxDepth
    · simp only [if_pos hr]
      rw [Memory.read_write hwf]
      simp [show s.rxWr < 262 from hr]
    · simp only [if_neg hr]
      rw [if_neg (fun h => hr h.2)]
  · rw [hstep, depositByte_unarmed (s := { s with inputs := rest, inbound := q }) ha]

/-- Settles O33: a write is ignored while busy; while idle it is `hostStore`'s, and a buffer write reads back (R55). -/
theorem hostWritesOnlyWhileIdle : Obligations.HostWritesOnlyWhileIdle := by
  intro s target v rest hi
  have hstep : step s = ({ s with inputs := rest } : State).hostWrite target v := step_environment hi nofun
  refine ⟨fun hb => by rw [hstep, State.hostWrite, if_neg hb], fun hidle h => ?_⟩
  rw [hstep, State.hostWrite, if_pos hidle]
  refine ⟨?_, ?_, ?_, ?_, ?_⟩
  · rintro rfl
    rfl
  · rintro rfl
    rfl
  · rintro i rfl hlt
    exact ⟨_, if_pos hlt, rfl, fun a => Memory.read_write h.reqData_wf i a v⟩
  · rintro i rfl hlt
    exact ⟨_, if_pos hlt, rfl, fun a => Memory.read_write h.txbuf_wf i a v⟩
  · rintro i rfl hlt
    exact ⟨_, if_pos hlt, rfl, fun a => Memory.read_write h.rxbuf_wf i a v⟩

/-- A byte keeps its value on the port's nine bits. -/
theorem toNat_setWidth_byte (v : Byte) : (v.setWidth 9).toNat = v.toNat := by
  simp only [BitVec.toNat_setWidth]
  omega

theorem windowRead_of_idle {s : State} (h : s.tstate = .idle) (space : Space) (buffer : Memory) {depth a : Nat}
    (ha : a < depth) :
    s.windowRead space buffer depth a = .next (s.returnRead ((Memory.read buffer a).setWidth 9)) := by
  rw [State.windowRead, if_pos h, if_pos ha]

theorem windowRead_of_busy {s : State} (h : s.tstate ≠ .idle) (space : Space) (buffer : Memory) (depth a : Nat) :
    s.windowRead space buffer depth a = .next (s.draw.returnRead ((Config.freeByte s.draws 0).setWidth 9)) :=
  if_neg h

/-- Settles O34: the frame is `hostRead_frame`, the values are those `returnRead` puts on the port. -/
theorem hostReadsHaveNoSideEffect : Obligations.HostReadsHaveNoSideEffect := by
  intro s target rest hi
  have hstep : step s = ({ s with inputs := rest } : State).hostRead target := step_environment hi nofun
  rw [hstep]
  refine ⟨fun t ht => hostRead_frame ht, ?_, ?_, ?_, ?_, ?_, ?_, ?_⟩
  · rintro rfl
    exact ⟨_, rfl, toNat_setWidth_byte _⟩
  · rintro rfl
    exact ⟨_, rfl, toNat_setWidth_byte _⟩
  · rintro rfl
    exact ⟨_, rfl, rfl⟩
  · rintro i rfl hlt
    exact ⟨_, if_pos hlt, toNat_setWidth_byte _⟩
  · rintro i rfl hlt hidle
    exact ⟨_, windowRead_of_idle (by exact hidle) _ _ hlt, toNat_setWidth_byte _⟩
  · rintro i rfl hlt hidle
    exact ⟨_, windowRead_of_idle (by exact hidle) _ _ hlt, toNat_setWidth_byte _⟩
  · rintro i (rfl | rfl) hb
    · exact ⟨_, windowRead_of_busy (by exact hb) _ _ _ _⟩
    · exact ⟨_, windowRead_of_busy (by exact hb) _ _ _ _⟩

/-- Settles O50: each of the four moves by its equation in `State.environment`. -/
theorem clockAndTransportInputs : Obligations.ClockAndTransportInputs := by
  intro s rest
  refine ⟨fun n hi => ?_, fun t hi => ?_, fun level hi => ?_, fun v hi => ?_⟩ <;> rw [step_environment hi nofun]
  · rfl
  · rw [State.environment, Nat.max_def]
  · rfl
  · rfl

/-! ## The schedule and the reset input -/

/-- Settles O6: the free step is the FSM step of the state with one value drawn, as a scheduled move would take it. -/
theorem emptyScheduleLeavesTheFsmAlone : Obligations.EmptyScheduleLeavesTheFsmAlone := by
  intro s hi
  have hstep : step s = .next (s.fsmFree Config.session) := by
    unfold step
    rw [hi]
  rw [hstep]
  refine ⟨fun hidle => ?_, fun hb => ⟨Config.freeAnswer s.draws, Config.freeExit s.draws, ?_⟩⟩
  · rw [State.fsmFree, if_pos hidle]
  · rw [fsmFree_of_busy hb, step_fsm rfl, State.draw, hi]

/-- A step that asserts reset, which always completes (R45, R260). -/
theorem step_reset {s : State} {rest : List Move} (hi : s.inputs = .reset :: rest) :
    step s = .next ({ s with inputs := rest } : State).resetInput :=
  step_environment hi nofun

/-- Settles O7: both states are written out in the model, and R45's values stand in them. -/
theorem resetGivesTheStatedValues : Obligations.ResetGivesTheStatedValues := by
  refine ⟨?_, fun s0 rest hi => ⟨_, step_reset hi, rfl, rfl, rfl, rfl, rfl, rfl, rfl⟩⟩
  rintro s (rfl | ⟨s0, rest, hi, hs⟩)
  · exact ⟨rfl, rfl, rfl, rfl, rfl, rfl, rfl, rfl, fun _ => rfl, rfl⟩
  · rw [step_reset hi] at hs
    cases hs
    exact ⟨rfl, rfl, rfl, rfl, rfl, rfl, rfl, rfl, fun _ => rfl, rfl⟩

/-- Settles O8: the initial state is idle and unarmed, its buffers are empty and `DONE` is 0. -/
theorem invariantHoldsAtReset : Obligations.InvariantHoldsAtReset :=
  .of_idle
    { reqData_wf := rfl
      rspData_wf := rfl
      txbuf_wf := rfl
      rxbuf_wf := rfl
      count_range := .inl rfl
      err_not_reserved := ⟨nofun, nofun⟩ } rfl rfl rfl nofun

/-- Settles O48: the client's fields of `resetInput` (log 13). -/
theorem resetAbandonsTheWaitingCall : Obligations.ResetAbandonsTheWaitingCall :=
  fun _ _ hi => ⟨_, step_reset hi, rfl, rfl, rfl, rfl, rfl⟩

/-! ## The sensor's report -/

/-- Deposits on an armed path advance the position by every byte (R33). -/
theorem depositBytes_rxWr {s : State} (h : s.rxArmed = true) (bs : List Byte) :
    (s.depositBytes bs).rxWr = s.rxWr + bs.length := by
  induction bs generalizing s with
  | nil => rfl
  | cons b bs ih =>
    have hb : (s.depositByte b).rxWr = s.rxWr + 1 := by rw [State.depositByte, if_pos h]
    have ha : (s.depositByte b).rxArmed = true := by rw [depositByte_frame]; exact h
    rw [State.depositBytes, ih ha, hb, List.length_cons]
    omega

theorem received_rxWr {s : State} (ha : s.rxArmed = true) (k : Config) (data : List Byte) :
    (s.received k data).rxWr = s.rxWr + s.inbound.length + (7 + data.length) := by
  rw [State.received, depositBytes_rxWr (s := { s with inbound := [] }) ha, List.length_append, length_encodeFrame]
  exact (Nat.add_assoc _ _ _).symm

theorem received_of_unarmed {s : State} (ha : s.rxArmed = false) (k : Config) (data : List Byte) :
    s.received k data = { s with inbound := [] } :=
  depositBytes_unarmed (s := { s with inbound := [] }) ha _

/-- `t` is `s` but for what a poll in WAIT may change: the registers of a transaction's end, the trace, the draw counter and
the client's fields (R156 to R159, R190). -/
def PollOnly (s t : State) : Prop :=
  t =
    { s with
      rspCmd := t.rspCmd, rspLen := t.rspLen, rspData := t.rspData, err := t.err, tstate := t.tstate, done := t.done
      rxArmed := t.rxArmed, trace := t.trace, draws := t.draws, dataFormat := t.dataFormat
      dataFormatFetched := t.dataFormatFetched, sensorData := t.sensorData, query := t.query, result := t.result
      clientDraws := t.clientDraws }

theorem PollOnly.deliver {s t : State} (h : PollOnly s t) (k : Config) : PollOnly s (t.deliver k) := by
  have hd := deliver_frame k t
  generalize t.deliver k = u at *
  unfold PollOnly at *
  rw [hd, h]

theorem blockStep_pollOnly {k : Config} {s : State} (hw : s.tstate = .wait) (ok : Bool) (pick : WaitExit) :
    PollOnly s (s.blockStep k ok pick) := by
  have hb := blockStep_cases k ok pick s
  generalize s.blockStep k ok pick = t at *
  cases hb with
  | waits => rfl
  | ends e =>
    unfold PollOnly
    rw [takeExit_frame]
  | idle h | armed h | armFailed h | sent h | sendFailed h => rw [hw] at h; cases h

theorem fsmStep_pollOnly {k : Config} {s : State} (hw : s.tstate = .wait) (ok : Bool) (pick : WaitExit) :
    PollOnly s (s.fsmStep k ok pick) := by
  have hb := blockStep_pollOnly (k := k) hw ok pick
  rcases fsmStep_cases k ok pick s with ⟨he, -⟩ | ⟨he, -⟩ <;> rw [he]
  · exact hb
  · exact hb.deliver k

/-- After its reception a report changes only what a poll in WAIT may (R201, log 19). -/
theorem slaveReport_pollOnly (k : Config) (s : State) (data : List Byte) :
    PollOnly (s.received k data) (s.slaveReport k data) := by
  rw [slaveReport_eq]
  split
  · have ht : (s.received k data).tstate = .wait := by rwa [received_frame]
    rw [fsmFree_of_busy (by simp [ht])]
    exact fsmStep_pollOnly (s := (s.received k data).draw) ht _ _
  · rfl

/-- Settles O44: the report is the reception and, in WAIT, a poll, each with its frame. -/
theorem slaveErrorCompletesInEveryState : Obligations.SlaveErrorCompletesInEveryState := by
  intro s data
  have ht := slaveReport_pollOnly Config.session s data
  have hu := received_frame Config.session s data
  have hrx := congrArg State.rxbuf ht
  have hwr := congrArg State.rxWr ht
  refine ⟨s.slaveReport Config.session data, rfl, ?_⟩
  have heq := slaveReport_eq Config.session s data
  unfold PollOnly at ht
  rw [hu] at ht
  refine ⟨by rw [ht], by rw [ht], by rw [ht], by rw [ht], by rw [ht], by rw [ht], by rw [ht], by rw [ht], by rw [ht],
    by rw [ht], by rw [ht], by rw [ht], by rw [ht], by rw [ht], fun ha => ?_, fun hw => ?_, fun ha => ?_,
    fun hw ha => ?_⟩
  · exact hwr.trans (received_rxWr ha _ _)
  · rw [heq, if_neg hw]
    exact hu
  · rw [received_of_unarmed ha] at hrx hwr
    exact ⟨hrx, hwr⟩
  · rw [heq, if_neg hw, received_of_unarmed ha]

/-! ## What the client holds when a measurement query ends -/

theorem le32s_range (b0 b1 b2 b3 : Byte) : -(2 ^ 31) ≤ le32s b0 b1 b2 b3 ∧ le32s b0 b1 b2 b3 < 2 ^ 31 := by
  have := (le32u b0 b1 b2 b3).isLt
  simp only [le32s]
  split <;> omega

/-- A measurement's value is exact in 32 bits (R197). -/
theorem toInt_ofInt_roundHundredths {raw : Int} (hlo : -(2 ^ 31) ≤ raw) (hhi : raw < 2 ^ 31) :
    (BitVec.ofInt 32 (roundHundredths raw)).toInt = roundHundredths raw := by
  have hr : -(2 ^ 31) ≤ roundHundredths raw ∧ roundHundredths raw < 2 ^ 31 := by
    simp only [roundHundredths]
    split <;> omega
  exact BitVec.toInt_ofInt_eq_self (by decide) hr.1 hr.2

/-- What a measurement query returns after a success, from a payload of six bytes or more (R197). -/
theorem typedResult_measurement {k : Config} {s : State} {status error b0 b1 b2 b3 : Byte} {more : List Byte}
    (he : s.err = .noError) (hl : s.rspLen.toNat ≤ 251)
    (hp : s.payload (k.hasIndex .sensorData) = status :: error :: b0 :: b1 :: b2 :: b3 :: more) :
    s.typedResult k .sensorData =
      .measurement ⟨status, error, BitVec.ofInt 32 (roundHundredths (le32s b0 b1 b2 b3))⟩ :=
  typedResult_of_convert he hl (by rw [hp]; rfl)

/-- Delivery to a measurement query: what it returns stands in `SENSOR_DATA`, the fallback after an error, the converted
payload after a success (R35, R197, R204). -/
theorem deliver_measurement (k : Config) {s : State} (hq : s.query = some .sensorData) :
    ∃ d r, (s.deliver k).sensorData = some d ∧ (s.deliver k).result = some r ∧ r.value = .measurement d ∧
      (s.err ≠ .noError → d = ⟨0xFF, 0xFF, 0⟩) ∧
      (s.err = .noError → s.rspLen.toNat ≤ 251 → ∀ status error b0 b1 b2 b3 more,
        s.payload (k.hasIndex .sensorData) = status :: error :: b0 :: b1 :: b2 :: b3 :: more →
        d.status = status ∧ d.error = error ∧ d.value.toInt = roundHundredths (le32s b0 b1 b2 b3)) := by
  obtain ⟨d, hd, hstored⟩ := (deliver_sensorData k s).1 hq
  refine ⟨d, _, hstored, deliver_result hq, hd, fun he => ?_, fun he hl status error b0 b1 b2 b3 more hp => ?_⟩
  · rw [typedResult_of_error he] at hd
    exact (TypedResult.measurement.inj hd).symm
  · rw [typedResult_measurement he hl hp] at hd
    obtain ⟨hlo, hhi⟩ := le32s_range b0 b1 b2 b3
    obtain rfl := TypedResult.measurement.inj hd
    exact ⟨rfl, rfl, toInt_ofInt_roundHundredths hlo hhi⟩

/-- Settles O51: of all a step does to the client, a delivery ends the query and stores its measurement, and a launch clears
it; the reset input leaves it (log 13). -/
theorem sensorDataHoldsTheReturnedMeasurement : Obligations.SensorDataHoldsTheReturnedMeasurement := by
  intro s s' hstep
  refine ⟨fun hr hq hq' => ?_, fun hne => ?_⟩
  · obtain ⟨rest, he⟩ := step_effect_of_resetNotNext hstep hr
    cases he.client with
    | same hs =>
      obtain ⟨-, -, -, hsame, -⟩ := hs
      rw [hsame, hq] at hq'
      cases hq'
    | delivers u hs =>
      obtain ⟨-, -, -, hsame, -⟩ := hs
      simp only [State.deliver_err, State.deliver_rspLen, State.deliver_rspData]
      exact deliver_measurement Config.session (hsame.trans hq)
    | launches q _ _ hlaunched =>
      rw [hlaunched] at hq'
      cases hq'
  · obtain ⟨rest, he | ⟨-, rfl⟩⟩ := step_effect hstep
    · cases he.client with
      | same hs =>
        obtain ⟨-, -, hsame, -, -⟩ := hs
        exact absurd hsame hne
      | delivers u hs =>
        obtain ⟨-, -, hdata, hsame, -⟩ := hs
        refine .inl ⟨hsame.symm.trans (Decidable.not_not.1 fun hu => ?_), State.deliver_query _ _⟩
        exact hne (((deliver_sensorData _ u).2 hu).trans hdata)
      | launches q hi harm hlaunched _ hcleared =>
        exact .inr ⟨hi, harm, by simp [hlaunched], hcleared⟩
    · exact absurd rfl hne

end Sys2Proof.Machine
end

section
/-! PROOFS of the family 20_memory.md: the one fault of the machine, an offset an array does not have (R50, log 14). -/

namespace Sys2Proof.Machine

/-! ## Which accesses of the host name an offset that does not exist -/

/-- An access guarded by its array's range faults exactly outside the range, with the fault named. -/
theorem guarded_fault_iff {p : Prop} [Decidable p] {t : State} {f g : Fault} :
    (if p then .next t else .fault g : Result) = .fault f ↔ ¬p ∧ f = g := by
  by_cases hp : p
  · simp [hp]
  · simp [hp, eq_comm]

theorem hostStore_fault_iff {s : State} {v : Byte} {target : WriteTarget} {f : Fault} :
    s.hostStore v target = .fault f ↔
      ∃ i, (target = .reqData i ∧ maxData ≤ i ∧ f = .noSuchOffset .reqData i) ∨
        (target = .txbuf i ∧ txDepth ≤ i ∧ f = .noSuchOffset .txbuf i) ∨
        (target = .rxbuf i ∧ rxDepth ≤ i ∧ f = .noSuchOffset .rxbuf i) := by
  cases target with
  | reqCmd | reqLen => simp [State.hostStore]
  | reqData i | txbuf i | rxbuf i => simp [State.hostStore, guarded_fault_iff]

/-- A write is honoured while the block is idle, and only then can it fault (R40). -/
theorem hostWrite_fault_iff {s : State} {v : Byte} {target : WriteTarget} {f : Fault} :
    s.hostWrite target v = .fault f ↔ s.tstate = .idle ∧ s.hostStore v target = .fault f := by
  by_cases hidle : s.tstate = .idle <;> simp [State.hostWrite, hidle]

/-- The window is open while the block is idle, and only then can a read through it fault (R40). -/
theorem windowRead_fault_iff {s : State} {space : Space} {buffer : Memory} {depth a : Nat} {f : Fault} :
    s.windowRead space buffer depth a = .fault f ↔ s.tstate = .idle ∧ depth ≤ a ∧ f = .noSuchOffset space a := by
  by_cases hidle : s.tstate = .idle
  · simp [State.windowRead, hidle, guarded_fault_iff]
  · simp [windowRead_of_busy hidle, hidle]

theorem hostRead_fault_iff {s : State} {target : ReadTarget} {f : Fault} :
    s.hostRead target = .fault f ↔
      ∃ i, (target = .rspData i ∧ maxData ≤ i ∧ f = .noSuchOffset .rspData i) ∨
        (target = .txbuf i ∧ s.tstate = .idle ∧ txDepth ≤ i ∧ f = .noSuchOffset .txbuf i) ∨
        (target = .rxbuf i ∧ s.tstate = .idle ∧ rxDepth ≤ i ∧ f = .noSuchOffset .rxbuf i) := by
  cases target with
  | rspCmd | rspLen | txCount => simp [State.hostRead]
  | rspData i => simp [State.hostRead, guarded_fault_iff]
  | txbuf i | rxbuf i => simp [State.hostRead, windowRead_fault_iff]

/-! ## Only an access of the host faults -/

/-- Words presented run an instruction, which answers a next state, or are refused (R58). -/
theorem runIssued_ne_fault (bytes : List Byte) (s : State) (f : Fault) : runIssued bytes s ≠ .fault f := by
  unfold runIssued
  split
  · rename_i i _
    obtain ⟨t, ht, -⟩ := exec_effect i s
    rw [ht]
    nofun
  · nofun

theorem environment_fault {k : Config} {s : State} {m : Move} {f : Fault} (h : s.environment k m = .fault f) :
    (∃ target v, m = .write target v) ∨ ∃ target, m = .read target := by
  cases m with
  | write target v => exact .inl ⟨target, v, rfl⟩
  | read target => exact .inr ⟨target, rfl⟩
  | _ => cases h

/-- A step faults exactly when its move is an access of the host that faults. -/
theorem step_fault_iff {s : State} {f : Fault} :
    step s = .fault f ↔
      ∃ rest,
        (∃ target v, s.inputs = .write target v :: rest ∧
          ({ s with inputs := rest } : State).hostWrite target v = .fault f) ∨
        (∃ target, s.inputs = .read target :: rest ∧
          ({ s with inputs := rest } : State).hostRead target = .fault f) := by
  constructor
  · intro h
    unfold step at h
    split at h
    · cases h
    · exact absurd h (runIssued_ne_fault _ _ f)
    · rename_i m rest _ hi
      obtain ⟨target, v, rfl⟩ | ⟨target, rfl⟩ := environment_fault h
      · exact ⟨rest, .inl ⟨target, v, hi, h⟩⟩
      · exact ⟨rest, .inr ⟨target, hi, h⟩⟩
  · rintro ⟨rest, ⟨target, v, hi, h⟩ | ⟨target, hi, h⟩⟩
    · exact (step_environment hi nofun).trans h
    · exact (step_environment hi nofun).trans h

/-- Settles O49: a step that faults is an access of the host that faults, and those are known target by target. -/
theorem faultsAreOffsetsThatDoNotExist : Obligations.FaultsAreOffsetsThatDoNotExist := by
  intro s f
  simp only [step_fault_iff, hostWrite_fault_iff, hostStore_fault_iff, hostRead_fault_iff]
  constructor
  · rintro ⟨rest, ⟨_, v, hi, hidle, i, ⟨rfl, hf⟩ | ⟨rfl, hf⟩ | ⟨rfl, hf⟩⟩ |
      ⟨_, hi, i, ⟨rfl, hf⟩ | ⟨rfl, hf⟩ | ⟨rfl, hf⟩⟩⟩
    · exact ⟨i, v, rest, .inl ⟨hi, hidle, hf⟩⟩
    · exact ⟨i, v, rest, .inr (.inl ⟨hi, hidle, hf⟩)⟩
    · exact ⟨i, v, rest, .inr (.inr (.inl ⟨hi, hidle, hf⟩))⟩
    · exact ⟨i, 0, rest, .inr (.inr (.inr (.inl ⟨hi, hf⟩)))⟩
    · exact ⟨i, 0, rest, .inr (.inr (.inr (.inr (.inl ⟨hi, hf⟩))))⟩
    · exact ⟨i, 0, rest, .inr (.inr (.inr (.inr (.inr ⟨hi, hf⟩))))⟩
  · rintro ⟨i, v, rest, ⟨hi, hidle, hf⟩ | ⟨hi, hidle, hf⟩ | ⟨hi, hidle, hf⟩ | ⟨hi, hf⟩ | ⟨hi, hf⟩ | ⟨hi, hf⟩⟩
    · exact ⟨rest, .inl ⟨_, v, hi, hidle, i, .inl ⟨rfl, hf⟩⟩⟩
    · exact ⟨rest, .inl ⟨_, v, hi, hidle, i, .inr (.inl ⟨rfl, hf⟩)⟩⟩
    · exact ⟨rest, .inl ⟨_, v, hi, hidle, i, .inr (.inr ⟨rfl, hf⟩)⟩⟩
    · exact ⟨rest, .inr ⟨_, hi, i, .inl ⟨rfl, hf⟩⟩⟩
    · exact ⟨rest, .inr ⟨_, hi, i, .inr (.inl ⟨rfl, hf⟩)⟩⟩
    · exact ⟨rest, .inr ⟨_, hi, i, .inr (.inr ⟨rfl, hf⟩)⟩⟩

end Sys2Proof.Machine
end

section
/-! PROOFS of the family 30_encoding.md: the decoder and the encoding agree (R80, R81, R85, R95), and what is no instruction
is rejected by name (R13, R190, log 4). -/

namespace Sys2Proof.Machine

/-! ## Op selects -/

/-- An op select is the encoding of the instruction it decodes to (R95). -/
theorem encode_of_decodeOpSelect {b : Byte} {i : Instr} (h : decodeOpSelect b = .ok i) (k : Config) :
    encode k i = [b] := by
  have singleton (c : Byte) (hb : b.toNat = c.toNat) : [c] = [b] := by rw [BitVec.eq_of_toNat_eq hb]
  unfold decodeOpSelect at h
  split at h <;> cases h
  · exact singleton 0 ‹_›
  · exact singleton 1 ‹_›
  · exact singleton 2 ‹_›
  · exact singleton 3 ‹_›

theorem encodable_of_decodeOpSelect {b : Byte} {i : Instr} (h : decodeOpSelect b = .ok i) : i.encodable = true := by
  unfold decodeOpSelect at h
  split at h <;> cases h <;> rfl

/-- Only the four values of two bits are op selects (R95). -/
theorem decodeOpSelect_of_wide {b : Byte} (h : 4 ≤ b.toNat) : decodeOpSelect b = .reject .opSelectTooWide := by
  unfold decodeOpSelect
  split
  case h_5 => rfl
  all_goals omega

/-! ## Queries -/

/-- A query's words are its command's frame, the operand as the data (R85). -/
@[simp] theorem encode_instr (k : Config) (q : Query) (x : Option Byte) :
    encode k (q.instr x) = encodeFrame k (k.commandOf q) x.toList := by
  cases q <;> rfl

@[simp] theorem encodable_instr (q : Query) (x : Option Byte) : (q.instr x).encodable = true := by
  cases q <;> rfl

theorem decodeQuery_toList (q : Query) (x : Option Byte) : decodeQuery q x.toList = .ok (q.instr x) := by
  cases x <;> rfl

/-- A query is read from no data or from one byte, which is its operand (R190). -/
theorem of_decodeQuery {q : Query} {data : List Byte} {i : Instr} (h : decodeQuery q data = .ok i) :
    ∃ x : Option Byte, data = x.toList ∧ i = q.instr x := by
  match data, h with
  | [], h => exact ⟨none, rfl, (Decoded.ok.inj h).symm⟩
  | [index], h => exact ⟨some index, rfl, (Decoded.ok.inj h).symm⟩
  | _ :: _ :: _, h => cases h

theorem decodeQuery_of_long (q : Query) {data : List Byte} (h : 2 ≤ data.length) :
    decodeQuery q data = .reject .notARequest := by
  match data, h with
  | _ :: _ :: _, _ => rfl

/-! ## A command byte with its data -/

@[simp] theorem decodePacket_commandOf (k : Config) (q : Query) (data : List Byte) :
    decodePacket k (k.commandOf q) data = decodeQuery q data := by
  simp [decodePacket]

@[simp] theorem decodePacket_slaveError (k : Config) (data : List Byte) :
    decodePacket k k.cmdSlaveError data = .ok (.slaveError data) := by
  simp [decodePacket]

theorem decodePacket_of_unknown {k : Config} {c : Byte} (hq : ∀ q, c ≠ k.commandOf q) (hs : c ≠ k.cmdSlaveError)
    (data : List Byte) : decodePacket k c data = .reject .unknownCommand := by
  simp [decodePacket, Config.queryOf_eq_none hq, hs]

/-- A packet that decodes to an instruction is a query with its operand or a slave's error with its payload (R85, R201). -/
theorem of_decodePacket {k : Config} {c : Byte} {data : List Byte} {i : Instr} (h : decodePacket k c data = .ok i) :
    (∃ q x, c = k.commandOf q ∧ data = x.toList ∧ i = q.instr x) ∨ (c = k.cmdSlaveError ∧ i = .slaveError data) := by
  by_cases hq : ∃ q, c = k.commandOf q
  · obtain ⟨q, rfl⟩ := hq
    rw [decodePacket_commandOf] at h
    obtain ⟨x, hx, hi⟩ := of_decodeQuery h
    exact .inl ⟨q, x, rfl, hx, hi⟩
  · by_cases hs : c = k.cmdSlaveError
    · subst hs
      rw [decodePacket_slaveError] at h
      exact .inr ⟨rfl, (Decoded.ok.inj h).symm⟩
    · rw [decodePacket_of_unknown (not_exists.mp hq) hs] at h
      cases h

/-- The instruction of a packet has that packet's frame as its words. -/
theorem encode_of_decodePacket {k : Config} {c : Byte} {data : List Byte} {i : Instr}
    (h : decodePacket k c data = .ok i) : encode k i = encodeFrame k c data := by
  obtain ⟨q, x, rfl, rfl, rfl⟩ | ⟨rfl, rfl⟩ := of_decodePacket h
  · exact encode_instr k q x
  · rfl

theorem encodable_of_decodePacket {k : Config} {c : Byte} {data : List Byte} {i : Instr}
    (h : decodePacket k c data = .ok i) (hl : data.length ≤ 251) : i.encodable = true := by
  obtain ⟨q, x, -, -, rfl⟩ | ⟨-, rfl⟩ := of_decodePacket h
  · exact encodable_instr q x
  · exact decide_eq_true hl

/-! ## The rows of the opcode table, and the bytes that decode -/

/-- An instruction is an op select (R95), a query (R85) or the slave's error (R201). -/
theorem instr_rows (i : Instr) :
    (∃ b, decodeOpSelect b = .ok i) ∨ (∃ (q : Query) (x : Option Byte), i = q.instr x) ∨
      ∃ data, i = .slaveError data := by
  cases i with
  | execute => exact .inl ⟨0, rfl⟩
  | encode => exact .inl ⟨1, rfl⟩
  | decode => exact .inl ⟨2, rfl⟩
  | iscomplete => exact .inl ⟨3, rfl⟩
  | getModelName x => exact .inr (.inl ⟨.modelName, x, rfl⟩)
  | getProductName x => exact .inr (.inl ⟨.productName, x, rfl⟩)
  | getFirmwareVersion x => exact .inr (.inl ⟨.firmwareVersion, x, rfl⟩)
  | getSerialNumber x => exact .inr (.inl ⟨.serialNumber, x, rfl⟩)
  | getRuntime x => exact .inr (.inl ⟨.runtime, x, rfl⟩)
  | getProductionDate x => exact .inr (.inl ⟨.productionDate, x, rfl⟩)
  | getSensorData x => exact .inr (.inl ⟨.sensorData, x, rfl⟩)
  | getSensorTemperature x => exact .inr (.inl ⟨.sensorTemperature, x, rfl⟩)
  | getSensorDataFormat x => exact .inr (.inl ⟨.sensorDataFormat, x, rfl⟩)
  | getSensorName x => exact .inr (.inl ⟨.sensorName, x, rfl⟩)
  | slaveError data => exact .inr (.inr ⟨data, rfl⟩)

theorem decode_of_tooLong (k : Config) (s v c : Byte) {len : Byte} (rest : List Byte) (h : 251 < len.toNat) :
    decode k (s :: v :: c :: len :: rest) = .reject .lengthExceedsMaxData :=
  if_pos h

theorem decode_of_truncated (k : Config) (s v c : Byte) {len : Byte} {rest : List Byte} (hl : len.toNat ≤ 251)
    (hr : rest.length < len.toNat + 3) : decode k (s :: v :: c :: len :: rest) = .reject .truncatedFrame :=
  (if_neg (Nat.not_lt.mpr hl)).trans (if_pos hr)

/-- The frame of a query's command decodes as that query's data (R81, R85). -/
theorem decode_queryFrame (k : Config) (s v : Byte) (q : Query) {len : Byte} {rest : List Byte} (hl : len.toNat ≤ 251)
    (hr : len.toNat + 3 ≤ rest.length) :
    decode k (s :: v :: k.commandOf q :: len :: rest) = decodeQuery q (rest.take len.toNat) := by
  rw [decode_frame k s v _ len rest hl hr, decodePacket_commandOf]

/-- Bytes that decode are an op select, or a whole frame whose packet decodes (R80, R81, R95). -/
theorem of_decode {k : Config} {bytes : List Byte} {i : Instr} (h : decode k bytes = .ok i) :
    (∃ b, bytes = [b] ∧ decodeOpSelect b = .ok i) ∨
      ∃ s v c len rest, bytes = s :: v :: c :: len :: rest ∧ len.toNat ≤ 251 ∧ len.toNat + 3 ≤ rest.length ∧
        decodePacket k c (rest.take len.toNat) = .ok i := by
  match bytes, h with
  | [b], h => exact .inl ⟨b, rfl, h⟩
  | s :: v :: c :: len :: rest, h =>
    by_cases hl : len.toNat ≤ 251
    · by_cases hr : len.toNat + 3 ≤ rest.length
      · rw [decode_frame k s v c len rest hl hr] at h
        exact .inr ⟨s, v, c, len, rest, rfl, hl, hr, h⟩
      · rw [decode_of_truncated k s v c hl (Nat.not_le.mp hr)] at h
        cases h
    · rw [decode_of_tooLong k s v c rest (Nat.not_le.mp hl)] at h
      cases h

/-- A frame's command byte, length byte and data: all of it but the two markers before and the checksum and marker after
(R80). -/
theorem encodeFrame_fields (k : Config) (c : Byte) (data : List Byte) :
    ((encodeFrame k c data).drop 2).take ((encodeFrame k c data).length - 5) =
      c :: BitVec.ofNat 8 data.length :: data := by
  rw [length_encodeFrame, encodeFrame_eq, show 7 + data.length - 5 = data.length + 2 by omega]
  simp

theorem runIssued_of_reject {bytes : List Byte} {r : Reject} (h : decode Config.session bytes = .reject r) (s : State) :
    runIssued bytes s = .refused (.notAnInstruction r) := by
  unfold runIssued
  rw [h]

/-! ## The obligations -/

/-- Settles O1, row by row of the opcode table. -/
theorem decodeReadsBackEveryEncoding : Obligations.DecodeReadsBackEveryEncoding := by
  intro k i hi
  obtain ⟨b, hb⟩ | ⟨q, x, rfl⟩ | ⟨data, rfl⟩ := instr_rows i
  · rw [encode_of_decodeOpSelect hb]
    exact hb
  · have hx : x.toList.length ≤ 251 := by cases x <;> simp
    rw [encode_instr, decode_encodeFrame k _ _ hx, decodePacket_commandOf, decodeQuery_toList]
  · exact (decode_encodeFrame k _ data (of_decide_eq_true hi)).trans (decodePacket_slaveError k data)

/-- Settles O2: a frame that decodes carries the packet whose own frame the instruction's words are. -/
theorem decodedBytesCarryTheInstruction : Obligations.DecodedBytesCarryTheInstruction := by
  intro k bytes i h
  obtain ⟨b, rfl, hb⟩ | ⟨s, v, c, len, rest, rfl, hl, hr, hp⟩ := of_decode h
  · exact ⟨encodable_of_decodeOpSelect hb, fun _ => (encode_of_decodeOpSelect hb k).symm, fun hne => absurd rfl hne⟩
  · have hn : (rest.take len.toNat).length = len.toNat := List.length_take_of_le (by omega)
    refine ⟨encodable_of_decodePacket hp (by rw [hn]; exact hl), by simp, fun _ => ?_⟩
    rw [encode_of_decodePacket hp, encodeFrame_fields, length_encodeFrame, hn, BitVec.ofNat_toNat, BitVec.setWidth_eq]
    refine ⟨by simp only [List.length_cons]; omega, by omega, rest.drop len.toNat, ?_⟩
    simp

/-- Settles O3: the table's words by evaluation, a frame by its command byte and data. -/
theorem writtenOutWordsDecode : Obligations.WrittenOutWordsDecode := by
  refine ⟨by decide, by decide, by decide, by decide, by decide, by decide, fun k s v x c0 c1 e => ⟨?_, ?_, ?_, ?_⟩⟩
  · exact decode_queryFrame k s v .modelName (len := 0) (rest := [c0, c1, e]) (by decide) (by simp)
  · exact decode_queryFrame k s v .modelName (len := 1) (rest := [x, c0, c1, e]) (by decide) (by simp)
  · exact decode_queryFrame k s v .runtime (len := 0) (rest := [c0, c1, e]) (by decide) (by simp)
  · rw [decode_frame k s v _ 1 [x, c0, c1, e] (by decide) (by simp), decodePacket_slaveError]
    rfl

/-- Settles O4: the decoder's branches that reject, and the step that refuses what they reject. -/
theorem otherWordsAreRefused : Obligations.OtherWordsAreRefused := by
  refine ⟨fun _ => rfl, fun _ _ => decodeOpSelect_of_wide, ?_, fun k s v c _ _ => decode_of_truncated k s v c,
    fun k s v c _ => decode_of_tooLong k s v c, ?_, ?_, ?_⟩
  · intro k bytes h
    match bytes, h with
    | [_, _], _ => rfl
    | [_, _, _], _ => rfl
  · intro k s v c len rest hl hr hq hs
    rw [decode_frame k s v c len rest hl hr, decodePacket_of_unknown hq hs]
  · intro k s v len rest q h2 hl hr
    have hn : (rest.take len.toNat).length = len.toNat := List.length_take_of_le (by omega)
    rw [decode_queryFrame k s v q hl hr, decodeQuery_of_long q (by rw [hn]; exact h2)]
  · intro s bytes rest r hs hd
    rw [step_issue hs, runIssued_of_reject hd]

end Sys2Proof.Machine
end

section
/-! PROOFS of the family 40_packet_codec.md: what ENCODE writes (R110, R111), what DECODE answers (R115 to R124), when a frame
is complete (R125, R126), and which codes no step produces (R117, R235). -/

namespace Sys2Proof.Machine

/-! ## The unit operations of an idle block -/

theorem exec_encode_of_idle {s : State} (h : s.tstate = .idle) :
    exec .encode s = .next ((s.acceptStart .encode).hostEncode Config.session) :=
  congrArg Host.Outcome.next (startUnit_of_idle h _ _)

theorem exec_decode_of_idle {s : State} (h : s.tstate = .idle) :
    exec .decode s = .next ((s.acceptStart .decode).hostDecode Config.session) :=
  congrArg Host.Outcome.next (startUnit_of_idle h _ _)

theorem exec_iscomplete_of_idle {s : State} (h : s.tstate = .idle) :
    exec .iscomplete s = .next (s.acceptStart .iscomplete).hostIscomplete :=
  congrArg Host.Outcome.next (startUnit_of_idle h _ _)

theorem exec_execute_of_idle {s : State} (h : s.tstate = .idle) :
    exec .execute s = .next (s.acceptStart .execute).startExecute :=
  congrArg Host.Outcome.next (startUnit_of_idle h _ _)

/-- An operation that ends in an idle block sets `ERR` and `DONE` only (R23, R28). -/
theorem finish_of_idle {s : State} (h : s.tstate = .idle) (e : Status) : s.finish e = { s with err := e, done := true } := by
  unfold State.finish
  rw [← h]

theorem hostEncode_of_le (k : Config) {s : State} (h : s.reqLen.toNat ≤ maxData) :
    s.hostEncode k = (s.encodeRequest k).finish .noError :=
  if_neg (Nat.not_lt.2 h)

theorem hostEncode_of_oversize (k : Config) {s : State} (h : maxData < s.reqLen.toNat) :
    s.hostEncode k = s.finish .requestRejected :=
  if_pos h

theorem startExecute_of_oversize {s : State} (h : maxData < s.reqLen.toNat) :
    s.startExecute = s.failureExit .requestRejected :=
  if_pos h

/-- Host-started DECODE in an idle block writes `RSP_*`, `ERR` and `DONE`, and counts a draw on the guard path (R130). -/
theorem hostDecode_frame (k : Config) {s : State} (h : s.tstate = .idle) :
    s.hostDecode k =
      { s with
        done := true, rspCmd := (s.hostDecode k).rspCmd, rspLen := (s.hostDecode k).rspLen
        rspData := (s.hostDecode k).rspData, err := (s.hostDecode k).err, draws := (s.hostDecode k).draws } := by
  have hi : (s.decodeResponse k).tstate = .idle := by rw [decodeResponse_frame, h]
  simp only [State.hostDecode, finish_of_idle hi]
  rw [decodeResponse_frame]

/-- ENCODE of an admitted request in an idle block (R110, R130). -/
theorem exec_encode_of_le {s : State} (h : s.tstate = .idle) (hl : s.reqLen.toNat ≤ maxData) :
    exec .encode s =
      .next { s.encodeRequest Config.session with opsel := .encode, err := .noError, done := true } := by
  rw [exec_encode_of_idle h, hostEncode_of_le (s := s.acceptStart .encode) _ hl, finish_of_idle (by exact h)]
  rfl

/-- Settles O11: both operations end at once, in an idle block. -/
theorem oversizeRequestIsRejected : Obligations.OversizeRequestIsRejected := by
  intro s hs hl
  constructor
  · rw [exec_encode_of_idle hs, hostEncode_of_oversize (s := s.acceptStart .encode) _ hl, finish_of_idle (by exact hs)]
    rfl
  · rw [exec_execute_of_idle hs, startExecute_of_oversize (s := s.acceptStart .execute) hl, State.failureExit,
      finish_of_idle (by exact hs)]
    rfl

/-- Settles O16: the completion test is the conjunction of its two bytes' tests. -/
theorem iscompleteLooksAtTwoBytes : Obligations.IscompleteLooksAtTwoBytes := by
  intro s hs
  have hc : iscomplete s.rxbuf =
      decide (Memory.read s.rxbuf 3 ≠ 0 ∧ Memory.read s.rxbuf ((Memory.read s.rxbuf 3).toNat + 6) ≠ 0) :=
    (Bool.decide_and _ _).symm
  rw [exec_iscomplete_of_idle hs, ← hc]
  exact congrArg _ (finish_of_idle (s := { s.acceptStart .iscomplete with complete := iscomplete s.rxbuf }) hs _)

/-! ## The bytes of a frame -/

/-- Past the header and the data stand the checksum, low byte first, and the end marker (R80, R110). -/
theorem getElem?_encodeFrame_tail (k : Config) (c : Byte) (data : List Byte) (i : Nat) :
    (encodeFrame k c data)[4 + data.length + i]? =
      [lo8 (k.ck (frameHead k c data)), hi8 (k.ck (frameHead k c data)), k.eop][i]? := by
  have hn : 4 + data.length + i = (frameHead k c data).length + i := by rw [length_frameHead]
  unfold encodeFrame
  rw [hn, List.append_assoc, List.getElem?_append_right (Nat.le_add_right _ _), Nat.add_sub_cancel_left]
  rfl

/-- Below the checksum stands the head (R80, R110). -/
theorem getElem?_encodeFrame_head (k : Config) (c : Byte) (data : List Byte) {i : Nat} (h : i < 4 + data.length) :
    (encodeFrame k c data)[i]? = (frameHead k c data)[i]? := by
  unfold encodeFrame
  rw [List.append_assoc, List.getElem?_append_left (by rw [length_frameHead]; exact h)]

/-! ## ENCODE -/

section
variable (k : Config) {s : State} (hl : s.reqLen.toNat ≤ 251) (hw : Memory.wf txDepth s.txbuf = true)
include hl hw

/-- `TXBUF` after ENCODE of an admitted request: the frame, and above it what stood there (R110). -/
theorem read_encodeRequest (a : Nat) :
    Memory.read (s.encodeRequest k).txbuf a =
      ((encodeFrame k s.reqCmd s.requestData)[a]?).getD (Memory.read s.txbuf a) := by
  have hd : 0 + (encodeFrame k s.reqCmd s.requestData).length ≤ txDepth := by
    simp only [length_encodeFrame, length_requestData, txDepth]
    omega
  rw [State.encodeRequest_txbuf, Memory.read_writeBytes hw hd, if_pos (Nat.zero_le a), Nat.sub_zero]

/-- The fields before the checksum, as they stand in `TXBUF` (R80, R110). -/
theorem readBytes_encodeRequest_head :
    Memory.readBytes (s.encodeRequest k).txbuf 0 (4 + s.reqLen.toNat) = frameHead k s.reqCmd s.requestData := by
  apply List.ext_getElem?
  intro i
  rw [Memory.getElem?_readBytes, Nat.zero_add, read_encodeRequest k hl hw]
  have hn : (frameHead k s.reqCmd s.requestData).length = 4 + s.reqLen.toNat := by simp
  by_cases hi : i < 4 + s.reqLen.toNat
  · rw [if_pos hi, getElem?_encodeFrame_head _ _ _ (by simpa using hi), List.getElem?_eq_getElem (by omega)]
    rfl
  · rw [if_neg hi, List.getElem?_eq_none (by omega)]

/-- The checksum and the end marker, as they stand in `TXBUF` (R80, R110). -/
theorem read_encodeRequest_tail (i : Nat) (hi : i < 3) :
    Memory.read (s.encodeRequest k).txbuf (4 + s.reqLen.toNat + i) =
      ([lo8 (k.ck (frameHead k s.reqCmd s.requestData)), hi8 (k.ck (frameHead k s.reqCmd s.requestData)),
        k.eop][i]?).getD 0 := by
  rw [read_encodeRequest k hl hw, ← length_requestData s, getElem?_encodeFrame_tail,
    List.getElem?_eq_getElem (by simpa using hi)]
  rfl

/-- The data bytes, as they stand in `TXBUF` (R80, R110). -/
theorem read_encodeRequest_data {i : Nat} (hi : i < s.reqLen.toNat) :
    Memory.read (s.encodeRequest k).txbuf (4 + i) = Memory.read s.reqData i := by
  have hd : s.requestData[i]? = some (Memory.read s.reqData i) := by
    rw [State.requestData, Memory.getElem?_readBytes, if_pos hi, Nat.zero_add]
  rw [read_encodeRequest k hl hw, getElem?_encodeFrame_head _ _ _ (by simpa using hi), Nat.add_comm 4 i]
  show (s.requestData[i]?).getD _ = _
  rw [hd]
  rfl

end

/-- Settles O10: the frame's fields one by one, as ENCODE leaves them in `TXBUF`. -/
theorem encodeWritesTheFrame : Obligations.EncodeWritesTheFrame := by
  intro s hs hl hw
  have hread := read_encodeRequest Config.session hl hw
  have hhead := readBytes_encodeRequest_head Config.session hl hw
  have htail := read_encodeRequest_tail Config.session hl hw
  refine ⟨_, exec_encode_of_le hs hl, rfl, encodeRequest_count _ hl, hread 0, hread 1, hread 2, ?_,
    fun i hi => read_encodeRequest_data _ hl hw hi, ?_, ?_, ?_, fun a ha => ?_⟩
  · refine (hread 3).trans ?_
    show BitVec.ofNat 8 s.requestData.length = s.reqLen
    rw [length_requestData, BitVec.ofNat_toNat, BitVec.setWidth_eq]
  · rw [hhead]
    exact htail 0 (by decide)
  · rw [hhead, show 5 + s.reqLen.toNat = 4 + s.reqLen.toNat + 1 by omega]
    exact htail 1 (by decide)
  · rw [show 6 + s.reqLen.toNat = 4 + s.reqLen.toNat + 2 by omega]
    exact htail 2 (by decide)
  · refine (hread a).trans ?_
    rw [List.getElem?_eq_none (by simpa using ha)]
    rfl

/-! ## DECODE's checks, one by one -/

/-- Check 1 fails: the start marker or the version (R116, R117). -/
def StartBad (k : Config) (b : Memory) : Prop := Memory.read b 0 ≠ k.sop ∨ Memory.read b 1 ≠ k.ver

/-- Check 3 fails: the end marker (R118). -/
def EndBad (k : Config) (b : Memory) : Prop := Memory.read b (6 + lengthByte b) ≠ k.eop

/-- Check 4 fails: the checksum (R119). -/
def SumBad (k : Config) (b : Memory) : Prop :=
  le16 (Memory.read b (4 + lengthByte b)) (Memory.read b (5 + lengthByte b)) ≠
    k.ck (Memory.readBytes b 0 (4 + lengthByte b))

theorem receivedEndMarker_ne_iff {k : Config} {b : Memory} : receivedEndMarker b ≠ k.eop ↔ EndBad k b := by
  unfold receivedEndMarker EndBad
  rw [show headerSize + lengthByte b + checksumSize = 6 + lengthByte b by
    simp only [headerSize, sopSize, verSize, cmdSize, lenSize, checksumSize]; omega]

theorem transmittedChecksum_ne_iff {k : Config} {b : Memory} :
    transmittedChecksum b ≠ k.ck (coveredBytes b) ↔ SumBad k b := by
  unfold transmittedChecksum coveredBytes SumBad
  rw [show headerSize + lengthByte b + 1 = 5 + lengthByte b by
    simp only [headerSize, sopSize, verSize, cmdSize, lenSize]; omega]
  exact Iff.rfl

section
variable {k : Config} {b : Memory}

theorem checkFrame_of_startBad (h : StartBad k b) : checkFrame k b = some .invalidStartMarker := by
  rw [checkFrame_eq]
  exact if_pos h

theorem checkFrame_of_endBad (hs : ¬StartBad k b) (h : EndBad k b) : checkFrame k b = some .invalidEndMarker := by
  rw [checkFrame_eq]
  exact (if_neg hs).trans (if_pos (receivedEndMarker_ne_iff.2 h))

theorem checkFrame_of_not_endBad (hs : ¬StartBad k b) (h : ¬EndBad k b) :
    checkFrame k b = if transmittedChecksum b ≠ k.ck (coveredBytes b) then some .invalidChecksum else none := by
  rw [checkFrame_eq]
  exact (if_neg hs).trans (if_neg (mt receivedEndMarker_ne_iff.1 h))

theorem checkFrame_of_sumBad (hs : ¬StartBad k b) (he : ¬EndBad k b) (h : SumBad k b) :
    checkFrame k b = some .invalidChecksum := by
  rw [checkFrame_of_not_endBad hs he]
  exact if_pos (transmittedChecksum_ne_iff.2 h)

/-- A frame passes exactly when no check fails (R115). -/
theorem checkFrame_eq_none_iff : checkFrame k b = none ↔ ¬StartBad k b ∧ ¬EndBad k b ∧ ¬SumBad k b := by
  constructor
  · intro h
    have hs : ¬StartBad k b := fun hs => by simp [checkFrame_of_startBad hs] at h
    have he : ¬EndBad k b := fun he => by simp [checkFrame_of_endBad hs he] at h
    exact ⟨hs, he, fun hc => by simp [checkFrame_of_sumBad hs he hc] at h⟩
  · rintro ⟨hs, he, hc⟩
    rw [checkFrame_of_not_endBad hs he]
    exact if_neg (mt transmittedChecksum_ne_iff.1 hc)

end

/-! ## DECODE's answers -/

theorem decodeResponse_of_some {k : Config} {s : State} {e : Status} (h : checkFrame k s.rxbuf = some e) :
    s.decodeResponse k = { s.zeroResponse with err := e } := by
  unfold State.decodeResponse
  rw [h]

theorem decodeResponse_of_accepted {k : Config} {s : State} (h : checkFrame k s.rxbuf = none)
    (hl : lengthByte s.rxbuf ≤ maxData) : s.decodeResponse k = s.acceptFrame k := by
  unfold State.decodeResponse
  rw [h]
  exact if_pos hl

/-- A failing check is taken through the failure exit (R122, R240). -/
theorem hostDecode_of_some {k : Config} {s : State} {e : Status} (h : checkFrame k s.rxbuf = some e) :
    s.hostDecode k = s.failureExit e := by
  rw [State.hostDecode, decodeResponse_of_some h]
  rfl

/-- `RSP_DATA` of an accepted frame: its data, and above them what stood there (R22, R120, log 9). -/
theorem read_acceptFrame (k : Config) {s : State} (hw : Memory.wf maxData s.rspData = true)
    (hl : lengthByte s.rxbuf ≤ maxData) (i : Nat) :
    Memory.read (s.acceptFrame k).rspData i =
      if i < lengthByte s.rxbuf then Memory.read s.rxbuf (4 + i) else Memory.read s.rspData i := by
  have hd : 0 + (receivedData s.rxbuf).length ≤ maxData := by
    rw [receivedData, Memory.length_readBytes, Nat.zero_add]
    exact hl
  show Memory.read (Memory.writeBytes s.rspData 0 (receivedData s.rxbuf)) i = _
  rw [Memory.read_writeBytes hw hd, if_pos (Nat.zero_le i), receivedData, Memory.getElem?_readBytes, Nat.sub_zero]
  split <;> rfl

/-- Settles O12: the answer of each check, the accepted frame byte by byte, and the guard path's two codes. -/
theorem decodeFirstFailingCheckDecides : Obligations.DecodeFirstFailingCheckDecides := by
  intro s hs hw b len startBad endBad sumBad
  let u := s.acceptStart .decode
  have hfail {e : Status} (hc : checkFrame Config.session b = some e) :
      (u.hostDecode Config.session).err = e ∧ (u.hostDecode Config.session).rspCmd = 0 ∧
        (u.hostDecode Config.session).rspLen = 0 ∧ (u.hostDecode Config.session).rspData = [] := by
    rw [hostDecode_of_some (s := u) hc]
    exact ⟨rfl, rfl, rfl, rfl⟩
  refine ⟨_, exec_decode_of_idle hs, hostDecode_frame _ (by exact hs), fun h1 => (hfail (checkFrame_of_startBad h1)).1,
    fun h1 h2 => (hfail (checkFrame_of_endBad h1 h2)).1, fun h1 h2 h3 => (hfail (checkFrame_of_sumBad h1 h2 h3)).1,
    fun hbad => ?_, fun h1 h2 h3 hl => ?_, fun h1 h2 h3 _ => ?_⟩
  · cases hc : checkFrame Config.session b with
    | some e =>
      obtain ⟨-, hcmd, hlen, hdata⟩ := hfail hc
      exact ⟨hcmd, hlen, fun i => by rw [hdata, Memory.read_nil]⟩
    | none =>
      obtain ⟨h1, h2, h3⟩ := checkFrame_eq_none_iff.1 hc
      rcases hbad with h | h | h
      · exact absurd h h1
      · exact absurd h h2
      · exact absurd h h3
  · rw [State.hostDecode, decodeResponse_of_accepted (s := u) (checkFrame_eq_none_iff.2 ⟨h1, h2, h3⟩) hl]
    have hread := read_acceptFrame Config.session (s := u) hw hl
    exact ⟨rfl, rfl, fun i hi => (hread i).trans (if_pos hi),
      fun i hi => (hread i).trans (if_neg (Nat.not_lt.2 hi)), rfl⟩
  · rcases decodeResponse_err Config.session u with ⟨⟨e, hc, -⟩, -⟩ | ⟨-, he⟩
    · exact absurd (hc.symm.trans (checkFrame_eq_none_iff.2 ⟨h1, h2, h3⟩)) nofun
    · exact he

/-- Settles O13: a buffer that holds the frame is accepted, and its fields are the packet's. -/
theorem decodeOfEncodeGivesThePacket : Obligations.DecodeOfEncodeGivesThePacket := by
  intro s command data hs hw hl hb
  obtain ⟨hcmd, hlen, hdata⟩ := fields_encodeFrame Config.session command data (by omega)
  rw [← hb] at hcmd hlen hdata
  refine ⟨_, exec_decode_of_idle hs, ?_⟩
  rw [State.hostDecode, decodeResponse_of_frame (s := s.acceptStart .decode) _ hl hb]
  refine ⟨hcmd, hlen, ?_, by rw [← hcmd]; rfl⟩
  show Memory.readBytes (Memory.writeBytes s.rspData 0 (receivedData s.rxbuf)) 0 data.length = data
  rw [hdata]
  exact Memory.readBytes_writeBytes hw (by rw [Nat.zero_add]; exact hl)

/-! ## One changed byte -/

/-- The buffers hold different bytes at offset `j` and the same everywhere else. -/
def DiffersOnlyAt (j : Nat) (b b₀ : Memory) : Prop :=
  Memory.read b j ≠ Memory.read b₀ j ∧ ∀ a, a ≠ j → Memory.read b a = Memory.read b₀ a

theorem differsOnlyAt_set {bs : List Byte} {j : Nat} {v : Byte} (hd : bs.length ≤ rxDepth) (hj : j < bs.length)
    (hv : bs[j]? ≠ some v) :
    DiffersOnlyAt j (Memory.writeBytes [] 0 (bs.set j v)) (Memory.writeBytes [] 0 bs) := by
  have hset (a : Nat) : Memory.read (Memory.writeBytes [] 0 (bs.set j v)) a = ((bs.set j v)[a]?).getD 0 :=
    read_frameBuffer (by rw [List.length_set]; exact hd) a
  constructor
  · rw [hset, read_frameBuffer hd, List.getElem?_set_self hj, List.getElem?_eq_getElem hj]
    rw [List.getElem?_eq_getElem hj] at hv
    exact fun h => hv (congrArg some h.symm)
  · intro a ha
    rw [hset, read_frameBuffer hd, List.getElem?_set_ne ha.symm]

section
variable {k : Config} {j : Nat} {b b₀ : Memory} (h : DiffersOnlyAt j b b₀) (h0 : checkFrame k b₀ = none)
include h

theorem DiffersOnlyAt.lengthByte_eq (hj : j ≠ 3) : lengthByte b = lengthByte b₀ :=
  congrArg BitVec.toNat (h.2 3 hj.symm)

include h0

/-- A changed start marker or version (R124). -/
theorem checkFrame_of_start_changed (hj : j = 0 ∨ j = 1) : checkFrame k b = some .invalidStartMarker := by
  obtain ⟨hs, -, -⟩ := checkFrame_eq_none_iff.1 h0
  obtain ⟨hsop, hver⟩ := not_or.1 hs
  refine checkFrame_of_startBad ?_
  rcases hj with rfl | rfl
  · exact .inl (fun he => h.1 (he.trans (Decidable.not_not.1 hsop).symm))
  · exact .inr (fun he => h.1 (he.trans (Decidable.not_not.1 hver).symm))

theorem not_startBad_of_differsOnlyAt (hj : 2 ≤ j) : ¬StartBad k b := by
  obtain ⟨hs, -, -⟩ := checkFrame_eq_none_iff.1 h0
  unfold StartBad
  rw [h.2 0 (by omega), h.2 1 (by omega)]
  exact hs

theorem not_endBad_of_differsOnlyAt (h3 : j ≠ 3) (hj : j ≠ 6 + lengthByte b₀) : ¬EndBad k b := by
  obtain ⟨-, he, -⟩ := checkFrame_eq_none_iff.1 h0
  unfold EndBad
  rw [h.lengthByte_eq h3, h.2 _ hj.symm]
  exact he

/-- A changed end marker (R124). -/
theorem checkFrame_of_end_changed (hj : j = 6 + lengthByte b₀) : checkFrame k b = some .invalidEndMarker := by
  obtain ⟨-, he, -⟩ := checkFrame_eq_none_iff.1 h0
  refine checkFrame_of_endBad (not_startBad_of_differsOnlyAt h h0 (by omega)) ?_
  unfold EndBad
  rw [h.lengthByte_eq (by omega), ← hj]
  rw [EndBad, ← hj, Decidable.not_not] at he
  exact fun hb => h.1 (hb.trans he.symm)

/-- A changed byte of the checksum (R124): the covered bytes are the same, the checksum is not. -/
theorem checkFrame_of_sum_changed (hj : j = 4 + lengthByte b₀ ∨ j = 5 + lengthByte b₀) :
    checkFrame k b = some .invalidChecksum := by
  obtain ⟨-, -, hc⟩ := checkFrame_eq_none_iff.1 h0
  refine checkFrame_of_sumBad (not_startBad_of_differsOnlyAt h h0 (by omega))
    (not_endBad_of_differsOnlyAt h h0 (by omega) (by omega)) ?_
  have hcov : Memory.readBytes b 0 (4 + lengthByte b₀) = Memory.readBytes b₀ 0 (4 + lengthByte b₀) :=
    Memory.readBytes_congr fun i _ hi => h.2 i (by omega)
  unfold SumBad
  rw [h.lengthByte_eq (by omega), hcov, ← Decidable.not_not.1 hc]
  intro he
  obtain ⟨hlo, hhi⟩ := le16_injective he
  rcases hj with rfl | rfl
  · exact h.1 hlo
  · exact h.1 hhi

/-- A changed command or data byte, under the checksum's sensitivity (R124, R143): the checksum is the same, that of the
covered bytes is not. -/
theorem checkFrame_of_covered_changed (hk : k.SingleByteSensitive) (hl : lengthByte b₀ ≤ 251)
    (hj : j = 2 ∨ (4 ≤ j ∧ j < 4 + lengthByte b₀)) : checkFrame k b = some .invalidChecksum := by
  obtain ⟨-, -, hc⟩ := checkFrame_eq_none_iff.1 h0
  refine checkFrame_of_sumBad (not_startBad_of_differsOnlyAt h h0 (by omega))
    (not_endBad_of_differsOnlyAt h h0 (by omega) (by omega)) ?_
  have hck : k.ck (Memory.readBytes b 0 (4 + lengthByte b₀)) ≠ k.ck (Memory.readBytes b₀ 0 (4 + lengthByte b₀)) := by
    refine hk _ _ j (by simp) (by simp) (by simp; omega) (by omega) (by simp; omega) ?_ fun i hi => ?_
    · rw [Memory.getElem?_readBytes, Memory.getElem?_readBytes, if_pos (by omega), if_pos (by omega), Nat.zero_add]
      exact fun he => h.1 (Option.some.inj he)
    · rw [Memory.getElem?_readBytes, Memory.getElem?_readBytes, Nat.zero_add, h.2 i hi]
  unfold SumBad
  rw [h.lengthByte_eq (by omega), h.2 _ (by omega), h.2 _ (by omega), Decidable.not_not.1 hc]
  exact hck.symm

end

/-- Settles O14: the buffer differs from one that passes every check at one offset, and the region of the offset names the check
that fails; a failing check zeroes the outputs. -/
theorem oneChangedByteIsReported : Obligations.OneChangedByteIsReported := by
  intro k s command data j v hl hj hv hb
  have hd := differsOnlyAt_set (bs := encodeFrame k command data) (by simp only [length_encodeFrame, rxDepth]; omega)
    (by rw [length_encodeFrame]; exact hj) hv
  have h0 := checkFrame_encodeFrame k command data (by omega)
  obtain ⟨-, hn, -⟩ := fields_encodeFrame k command data (by omega)
  rw [← hb] at hd
  rw [← hn] at hl ⊢
  have herr {e : Status} (hc : checkFrame k s.rxbuf = some e) : (s.decodeResponse k).err = e := by
    rw [decodeResponse_of_some hc]
  refine ⟨fun h => herr (checkFrame_of_start_changed hd h0 h), fun h => herr (checkFrame_of_end_changed hd h0 h),
    fun h => herr (checkFrame_of_sum_changed hd h0 h), fun hk h => herr (checkFrame_of_covered_changed hd h0 hk hl h),
    fun _ hne hns => ?_⟩
  rcases decodeResponse_err k s with ⟨-, hzero⟩ | ⟨-, he | he⟩
  · exact hzero
  · exact absurd he hne
  · exact absurd he hns

/-! ## Completion -/

/-- Settles O17: an offset at or above the deposit position reads 0, which completes nothing (R33, R125). -/
theorem completionMeansTheBytesArrived : Obligations.CompletionMeansTheBytesArrived := by
  intro s h ha hc
  obtain ⟨-, hend⟩ := (iscomplete_iff s.rxbuf).1 hc
  refine Nat.le_of_not_lt fun hlt => ?_
  exact hend (Memory.read_above (h.deposits_below ha) (by omega))

/-- Settles O18: the completion test on a frame's first bytes, for all of them and for fewer. -/
theorem onlyWholeFramesWithDataComplete : Obligations.OnlyWholeFramesWithDataComplete := by
  intro k command data hl
  constructor
  · have hwhole := iscomplete_frame_take k command data hl (7 + data.length)
    rw [List.take_of_length_le (Nat.le_of_eq (length_encodeFrame k command data))] at hwhole
    exact hwhole.trans (and_iff_right (Nat.le_refl _))
  · intro n hn
    refine Bool.eq_false_iff.2 fun hc => ?_
    obtain ⟨hle, -⟩ := (iscomplete_frame_take k command data hl n).1 hc
    omega

/-! ## The reserved codes -/

/-- From `s` to `t`, `ERR` stays or gets a code that is not reserved (R117, R235). -/
def RaisesNoReservedCode (s t : State) : Prop :=
  t.err = s.err ∨ (t.err ≠ .invalidVersion ∧ t.err ≠ .unknownCommand)

/-- DECODE's codes are not among the reserved ones (R115, R117). -/
theorem decodeResponse_err_not_reserved (k : Config) (s : State) :
    (s.decodeResponse k).err ≠ .invalidVersion ∧ (s.decodeResponse k).err ≠ .unknownCommand := by
  rcases decodeResponse_err k s with ⟨⟨e, hc, he⟩, -⟩ | ⟨-, he | he⟩ <;> rw [he]
  · rcases checkFrame_some hc with rfl | rfl | rfl <;> exact ⟨nofun, nofun⟩
  · exact ⟨nofun, nofun⟩
  · exact ⟨nofun, nofun⟩

theorem startExecute_raisesNoReservedCode (s : State) : RaisesNoReservedCode s s.startExecute := by
  unfold State.startExecute
  split
  · exact .inr ⟨nofun, nofun⟩
  · exact .inl rfl

theorem blockStep_raisesNoReservedCode (k : Config) (ok : Bool) (pick : WaitExit) (s : State) :
    RaisesNoReservedCode s (s.blockStep k ok pick) := by
  have hb := blockStep_cases k ok pick s
  generalize s.blockStep k ok pick = t at *
  cases hb with
  | idle => exact .inl rfl
  | armed => exact .inl rfl
  | armFailed => exact .inr ⟨nofun, nofun⟩
  | sent => exact .inl rfl
  | sendFailed => exact .inr ⟨nofun, nofun⟩
  | waits => exact .inl rfl
  | ends e =>
    cases e with
    | completion => exact .inr (decodeResponse_err_not_reserved k s.abortReceive)
    | timeout => exact .inr ⟨nofun, nofun⟩
    | waitFailure => exact .inr ⟨nofun, nofun⟩

theorem fsmStep_raisesNoReservedCode (k : Config) (ok : Bool) (pick : WaitExit) (s : State) :
    RaisesNoReservedCode s (s.fsmStep k ok pick) := by
  unfold RaisesNoReservedCode
  rw [fsmStep_field State.err k (State.deliver_err k)]
  exact blockStep_raisesNoReservedCode k ok pick s

theorem slaveReport_raisesNoReservedCode (k : Config) (s : State) (data : List Byte) :
    RaisesNoReservedCode s (s.slaveReport k data) := by
  obtain ⟨u, hu, -, ⟨-, h⟩ | ⟨-, h⟩⟩ := slaveReport_cases k s data <;> rw [h]
  · rw [hu]
    exact .inl rfl
  · have hf := fsmStep_raisesNoReservedCode k (Config.freeAnswer u.draws) (Config.freeExit u.draws) u.draw
    rw [hu] at hf ⊢
    exact hf

/-- Only a START, an FSM step and a report's poll write `ERR`. -/
theorem Effect.raisesNoReservedCode {k : Config} {s t : State} (h : Effect k s t) : RaisesNoReservedCode s t := by
  cases h with
  | encode =>
    unfold State.hostEncode
    split
    · exact .inr ⟨nofun, nofun⟩
    · exact .inr ⟨nofun, nofun⟩
  | decode => exact .inr (decodeResponse_err_not_reserved k (s.acceptStart .decode))
  | iscomplete => exact .inr ⟨nofun, nofun⟩
  | execute => exact startExecute_raisesNoReservedCode (s.acceptStart .execute)
  | launch q index =>
    exact startExecute_raisesNoReservedCode (State.openQuery q ((s.acceptStart .execute).writeRequest k q index))
  | fsm ok pick => exact fsmStep_raisesNoReservedCode k ok pick s
  | fsmFree => exact fsmStep_raisesNoReservedCode k _ _ s.draw
  | report data => exact slaveReport_raisesNoReservedCode k s data
  | deposit =>
    rcases depositNext_cases s with ⟨-, he⟩ | ⟨v, q, -, he⟩ <;> rw [he]
    · exact .inl rfl
    · rw [depositByte_frame]
      exact .inl rfl
  | _ => exact .inl rfl

/-- Settles O15: no effect of a step raises a reserved code, and the reset input gives `NoError` (R45). -/
theorem reservedCodesAreNeverProduced : Obligations.ReservedCodesAreNeverProduced := by
  intro s s' hstep
  obtain ⟨rest, he | ⟨-, rfl⟩⟩ := step_effect hstep
  · rcases he.raisesNoReservedCode with hsame | ⟨hv, hu⟩
    · rw [hsame]
      exact ⟨id, id⟩
    · exact ⟨fun h => absurd h hv, fun h => absurd h hu⟩
  · exact ⟨nofun, nofun⟩

end Sys2Proof.Machine
end

section
/-! PROOFS of the family 42_transaction_controller.md: the transitions of the FSM with their transport events and what they
keep in balance (R163, R170 to R172), START (R151), the steps ARM, SEND and WAIT (R152 to R161), the bound on WAIT (R173),
and a whole successful transaction (R150). -/

namespace Sys2Proof.Machine

/-! ## What a step shows of a transaction -/

/-- The transitions of `TSTATE` from `x` to `y` (R170), with `RX_ARMED` before and after, the transport events made (R171,
R172), the frame ENCODE gives, and `TX_COUNT` and `ERR` afterwards. -/
inductive Transition (x y : TState) (armed armed' : Bool) (events : List TransportEvent) (frame : List Byte)
    (count : BitVec 9) (err : Status) : Prop
  | stays : y = x → armed' = armed → events = [] → Transition x y armed armed' events frame count err
  | starts : x = .idle → y = .arm → armed' = armed → events = [] → Transition x y armed armed' events frame count err
  | arms : x = .arm → y = .send → armed' = true → events = [.arm true] →
      Transition x y armed armed' events frame count err
  | armFails : x = .arm → y = .idle → armed' = armed → events = [.arm false] → err = .armFailure →
      Transition x y armed armed' events frame count err
  | sends : x = .send → y = .wait → armed' = armed → events = [.tx frame count true] →
      Transition x y armed armed' events frame count err
  | sendFails : x = .send → y = .idle → armed' = false → events = [.tx frame count false, .abort] →
      err = .transmitFailure → Transition x y armed armed' events frame count err
  | ends : x = .wait → y = .idle → armed' = false → events = [.abort] →
      err ≠ .armFailure → err ≠ .transmitFailure → err ≠ .requestRejected →
      Transition x y armed armed' events frame count err

/-- From `s` to `t` the block makes one transition, its events added to the trace. -/
def Transits (k : Config) (s t : State) : Prop :=
  ∃ events, t.trace = s.trace ++ events ∧
    Transition s.tstate t.tstate s.rxArmed t.rxArmed events (s.encodeRequest k).txFrame t.txCount t.err

/-- `TSTATE`, `RX_ARMED` and the trace as they were. -/
theorem Transits.of_eq {k : Config} {s t : State} (hx : t.tstate = s.tstate) (ha : t.rxArmed = s.rxArmed)
    (ht : t.trace = s.trace) : Transits k s t :=
  ⟨[], by rw [ht, List.append_nil], .stays hx ha rfl⟩

/-- From IDLE to ARM, with no event. -/
theorem Transits.of_start {k : Config} {s t : State} (hs : s.tstate = .idle) (hx : t.tstate = .arm)
    (ha : t.rxArmed = s.rxArmed) (ht : t.trace = s.trace) : Transits k s t :=
  ⟨[], by rw [ht, List.append_nil], .starts hs hx ha rfl⟩

/-- DECODE's codes are none of the transaction's own (R115, R230). -/
theorem decodeResponse_err_ne (k : Config) (s : State) :
    (s.decodeResponse k).err ≠ .armFailure ∧ (s.decodeResponse k).err ≠ .transmitFailure ∧
      (s.decodeResponse k).err ≠ .requestRejected := by
  rcases decodeResponse_err k s with ⟨⟨e, hc, he⟩, -⟩ | ⟨-, he | he⟩ <;> rw [he]
  · rcases checkFrame_some hc with rfl | rfl | rfl <;> exact ⟨nofun, nofun, nofun⟩
  · exact ⟨nofun, nofun, nofun⟩
  · exact ⟨nofun, nofun, nofun⟩

/-- An exit of WAIT reports a code of its own (R157 to R159). -/
theorem takeExit_err_ne (k : Config) (s : State) (e : WaitExit) :
    (s.takeExit k e).err ≠ .armFailure ∧ (s.takeExit k e).err ≠ .transmitFailure ∧
      (s.takeExit k e).err ≠ .requestRejected := by
  cases e with
  | completion => exact decodeResponse_err_ne k s.abortReceive
  | timeout => exact ⟨nofun, nofun, nofun⟩
  | waitFailure => exact ⟨nofun, nofun, nofun⟩

theorem blockStep_transits (k : Config) (ok : Bool) (pick : WaitExit) (s : State) :
    Transits k s (s.blockStep k ok pick) := by
  have hb := blockStep_cases k ok pick s
  generalize s.blockStep k ok pick = t at *
  cases hb with
  | idle => exact .of_eq rfl rfl rfl
  | armed hs => exact ⟨_, rfl, .arms hs rfl rfl rfl⟩
  | armFailed hs => exact ⟨_, rfl, .armFails hs rfl rfl rfl rfl⟩
  | sent hs =>
    rw [sendDone_frame]
    exact ⟨_, rfl, .sends hs rfl rfl rfl⟩
  | sendFailed hs =>
    rw [sendFailed_frame]
    exact ⟨_, List.append_assoc _ _ _, .sendFails hs rfl rfl rfl rfl⟩
  | waits => exact .of_eq rfl rfl rfl
  | ends e hs =>
    obtain ⟨hx, -, ha, ht⟩ := takeExit_fields k s e
    obtain ⟨hna, hnt, hnr⟩ := takeExit_err_ne k s e
    exact ⟨_, ht, .ends hs hx ha rfl hna hnt hnr⟩

theorem fsmStep_transits (k : Config) (ok : Bool) (pick : WaitExit) (s : State) : Transits k s (s.fsmStep k ok pick) := by
  have h := blockStep_transits k ok pick s.forgetClient
  rw [← forgetClient_fsmStep] at h
  exact h

theorem startExecute_of_le {s : State} (h : s.reqLen.toNat ≤ maxData) : s.startExecute = { s with tstate := .arm } :=
  if_neg (Nat.not_lt.2 h)

/-- START of EXECUTE, the request registers written before or not (R151, R190). -/
theorem startExecute_transits {k : Config} {s u : State} (hs : s.tstate = .idle) (ha : u.rxArmed = s.rxArmed)
    (ht : u.trace = s.trace) : Transits k s u.startExecute := by
  unfold State.startExecute
  split
  · exact .of_eq hs.symm ha ht
  · exact .of_start hs rfl ha ht

/-- Of all a step can do to an idle block, only an accepted EXECUTE moves `TSTATE`; no event is made (R41, R151). -/
theorem Effect.transits_of_idle {k : Config} {s t : State} (he : Effect k s t) (hi : s.tstate = .idle) :
    Transits k s t := by
  cases he with
  | encode =>
    unfold State.hostEncode
    split <;> exact .of_eq hi.symm rfl rfl
  | decode =>
    rw [hostDecode_frame k (s := s.acceptStart .decode) hi]
    exact .of_eq rfl rfl rfl
  | iscomplete => exact .of_eq hi.symm rfl rfl
  | execute | launch => exact startExecute_transits hi rfl rfl
  | fsm ok pick => exact fsmStep_transits k ok pick s
  | fsmFree hb => exact absurd hi hb
  | report data =>
    rw [slaveReport_eq, if_neg (by simp [hi]), received_frame]
    exact .of_eq rfl rfl rfl
  | deposit =>
    rw [depositNext_environmentOnly s]
    exact .of_eq rfl rfl rfl
  | _ => exact .of_eq rfl rfl rfl

/-- Every effect of a step is a transition of the FSM, or leaves what it shows. -/
theorem Effect.transits {k : Config} {s t : State} (he : Effect k s t) : Transits k s t := by
  by_cases hi : s.tstate = .idle
  · exact he.transits_of_idle hi
  · obtain ⟨u, hu, rfl | ⟨ok, pick, rfl⟩⟩ := he.busy_cases hi
    · rw [hu]
      exact .of_eq rfl rfl rfl
    · have h := fsmStep_transits k ok pick u
      generalize u.fsmStep k ok pick = t at *
      rw [hu] at h
      exact h

theorem step_transits {s t : State} (h : step s = .next t) (hr : s.resetNotNext) : Transits Config.session s t := by
  obtain ⟨rest, he⟩ := step_effect_of_resetNotNext h hr
  exact he.transits

/-- Settles O25: `TSTATE` moves as the transitions say. -/
theorem noOtherTransitionOfTstate : Obligations.NoOtherTransitionOfTstate := by
  intro s s' hstep hr
  obtain ⟨events, -, h⟩ := step_transits hstep hr
  cases h with
  | stays hy => exact .inl hy
  | starts hx hy | arms hx hy | armFails hx hy | sends hx hy | sendFails hx hy | ends hx hy =>
    rw [hx, hy]
    decide

/-! ## Aborts and transmissions keep pace with armings -/

/-- One abort is owed while the path is armed (R163). -/
def abortsOwed (armed : Bool) : Nat := if armed = true then 1 else 0

/-- One transmission is due in SEND (R154). -/
def transmitsDue (x : TState) : Nat := if x = .send then 1 else 0

/-- From `s` to `t`, aborts with what is owed and transmissions with what is due grew as the armings did (R171, R172). -/
def Balanced (s t : State) : Prop :=
  abortCount t.trace + abortsOwed t.rxArmed + armedCount s.trace =
      abortCount s.trace + abortsOwed s.rxArmed + armedCount t.trace ∧
    transmitCount t.trace + transmitsDue t.tstate + armedCount s.trace =
      transmitCount s.trace + transmitsDue s.tstate + armedCount t.trace

theorem Balanced.trans {s t u : State} (h : Balanced s t) (h' : Balanced t u) : Balanced s u := by
  unfold Balanced at *
  omega

/-- A transition from a state whose path is armed exactly in SEND and WAIT pays, by its events, what it owes. -/
theorem Transition.balanced {x y : TState} {armed armed' : Bool} {events : List TransportEvent} {frame : List Byte}
    {count : BitVec 9} {err : Status} (h : Transition x y armed armed' events frame count err)
    (ha : armed = true ↔ (x = .send ∨ x = .wait)) :
    abortCount events + abortsOwed armed' = abortsOwed armed + armedCount events ∧
      transmitCount events + transmitsDue y = transmitsDue x + armedCount events := by
  cases h with
  | stays hy hb he => simp [hy, hb, he, abortCount, armedCount, transmitCount]
  | starts hx hy hb he | arms hx hy hb he | armFails hx hy hb he | sends hx hy hb he | sendFails hx hy hb he
  | ends hx hy hb he =>
    simp only [hx, reduceCtorEq, or_false, or_true, iff_true, iff_false, Bool.not_eq_true] at ha
    simp [hx, hy, hb, he, ha, abortCount, armedCount, transmitCount, abortsOwed, transmitsDue]

theorem Transits.balanced {k : Config} {s t : State} (h : Transits k s t) (hs : Inv k s) : Balanced s t := by
  obtain ⟨events, ht, hm⟩ := h
  have hpay := hm.balanced hs.armed_iff
  unfold Balanced
  rw [ht]
  unfold abortCount armedCount transmitCount at *
  simp only [List.countP_append]
  omega

/-- Settles O47: the step is a transition, and under the invariant each transition pays what it owes. -/
theorem everyStepKeepsTheEventBalance : Obligations.EveryStepKeepsTheEventBalance := by
  intro s s' h hstep hr
  exact (step_transits hstep hr).balanced h

/-- A run keeps the invariant and the balance. -/
theorem Run.inv_balanced {s t : State} (hrun : Run s t) (h : Inv Config.session s) :
    Inv Config.session t ∧ Balanced s t := by
  induction hrun with
  | refl => exact ⟨h, rfl, rfl⟩
  | step _ hr hstep ih =>
    obtain ⟨ht, hb⟩ := ih
    exact ⟨everyStepKeepsTheInvariant _ _ ht hstep, hb.trans ((step_transits hstep hr).balanced ht)⟩

/-- Settles O27: the balance of the run, with nothing owed at its idle ends. -/
theorem abortExactlyOncePerArm : Obligations.AbortExactlyOncePerArm := by
  intro s s' h hs hrun hs'
  obtain ⟨h', haborts, htransmits⟩ := hrun.inv_balanced h
  have ha' := h'.unarmed_of_idle hs'
  rw [h.unarmed_of_idle hs, ha'] at haborts
  rw [hs, hs'] at htransmits
  exact ⟨ha', haborts, htransmits⟩

/-! ## The trace of a transaction -/

/-- The frame of the request in the registers (R110). -/
def State.requestFrame (k : Config) (s : State) : List Byte := encodeFrame k s.reqCmd s.requestData

/-- The events of a transaction so far, by the state it is in, and by `ERR` once it is over (R171). -/
def TracedTo (k : Config) (trace : List TransportEvent) (t : State) : Prop :=
  match t.tstate with
  | .arm => t.trace = trace
  | .send => t.trace = trace ++ [.arm true]
  | .wait => t.trace = trace ++ [.arm true, .tx (t.requestFrame k) t.txCount true]
  | .idle =>
    t.err ≠ .requestRejected ∧ (t.err = .armFailure → t.trace = trace ++ [.arm false]) ∧
      (t.err = .transmitFailure →
        t.trace = trace ++ [.arm true, .tx (t.requestFrame k) t.txCount false, .abort]) ∧
      (t.err ≠ .armFailure → t.err ≠ .transmitFailure →
        t.trace = trace ++ [.arm true, .tx (t.requestFrame k) t.txCount true, .abort])

/-- The step that leaves IDLE makes no event (R151). -/
theorem tracedTo_of_start {k : Config} {s t : State} (h : Transits k s t) (hs : s.tstate = .idle)
    (ht : t.tstate ≠ .idle) : TracedTo k s.trace t := by
  obtain ⟨events, htrace, hm⟩ := h
  cases hm with
  | stays hy => exact absurd (hy.trans hs) ht
  | starts hx hy ha he => simp only [TracedTo, hy, htrace, he, List.append_nil]
  | arms hx | armFails hx | sends hx | sendFails hx | ends hx => rw [hs] at hx; cases hx

/-- A transition of a busy block adds to the trace of its transaction what R171 says. -/
theorem TracedTo.transits {k : Config} {trace : List TransportEvent} {s t : State} (h : TracedTo k trace s)
    (hs : Inv k s) (hb : s.tstate ≠ .idle) (hk : KeepsOperands s t) (hm : Transits k s t) : TracedTo k trace t := by
  obtain ⟨hcmd, hlen, hdata, -, htx⟩ := hk
  obtain ⟨events, htrace, hm⟩ := hm
  have hframe : t.requestFrame k = s.requestFrame k := by
    simp only [State.requestFrame, State.requestData, hcmd, hlen, hdata]
  have hsent : (s.encodeRequest k).txFrame = t.requestFrame k := by
    rw [hframe]
    exact encodeRequest_txFrame k (hs.busy_len hb) hs.txbuf_wf
  unfold TracedTo at *
  cases hm with
  | stays hy ha he =>
    rw [hy, htrace, he, List.append_nil, hframe]
    cases hx : s.tstate with
    | idle => exact absurd hx hb
    | arm | send =>
      rw [hx] at h
      exact h
    | wait =>
      rw [hx] at h
      rw [(htx (by simp [hx])).2]
      exact h
  | starts hx => exact absurd hx hb
  | arms hx hy ha he =>
    simp only [hx] at h
    simp [hy, htrace, he, h]
  | armFails hx hy ha he herr =>
    simp only [hx] at h
    simp [hy, htrace, he, h, herr]
  | sends hx hy ha he =>
    simp only [hx] at h
    simp [hy, htrace, he, h, hsent]
  | sendFails hx hy ha he herr =>
    simp only [hx] at h
    simp [hy, htrace, he, h, hsent, herr]
  | ends hx hy ha he hna hnt hnr =>
    have hcount : t.txCount = s.txCount := (htx (by simp [hx])).2
    simp only [hx] at h
    simp [hy, htrace, he, h, hframe, hcount, hna, hnt, hnr]

/-- A transaction under way, or at its end, is in a state of the invariant, its events those of R171. -/
theorem Transaction.inv_tracedTo {s t : State} (htx : Transaction s t) (h : Inv Config.session s) :
    Inv Config.session t ∧ TracedTo Config.session s.trace t := by
  induction htx with
  | start hs hr hstep ht =>
    exact ⟨everyStepKeepsTheInvariant _ _ h hstep, tracedTo_of_start (step_transits hstep hr) hs ht⟩
  | on _ hb hr hstep ih =>
    obtain ⟨ht, htrace⟩ := ih
    obtain ⟨rest, he⟩ := step_effect_of_resetNotNext hstep hr
    exact ⟨everyStepKeepsTheInvariant _ _ ht hstep, htrace.transits ht hb (he.keepsOperands hb) he.transits⟩

/-- A transaction that is over ended in a step of a busy block. -/
theorem Transaction.last_step {s t : State} (htx : Transaction s t) (ht : t.tstate = .idle) :
    ∃ u, Transaction s u ∧ u.tstate ≠ .idle ∧ u.resetNotNext ∧ step u = .next t := by
  cases htx with
  | start _ _ _ hb => exact absurd ht hb
  | on hu hb hr hstep => exact ⟨_, hu, hb, hr, hstep⟩

/-- Settles O28: a rejected START goes through the failure exit; a transaction's events are read off at its end. -/
theorem tracesOfATransaction : Obligations.TracesOfATransaction := by
  refine ⟨fun s h hs hl => ?_, fun s t h htx ht => ?_⟩
  · refine ⟨_, exec_execute_of_idle hs, ?_⟩
    rw [startExecute_of_oversize (s := s.acceptStart .execute) hl]
    exact ⟨rfl, rfl, rfl, h.unarmed_of_idle hs⟩
  · obtain ⟨-, htrace⟩ := htx.inv_tracedTo h
    obtain ⟨u, hu, hb, hr, hstep⟩ := htx.last_step ht
    obtain ⟨hdone, hunarmed, -⟩ := (endOfTransactionIsClean u t (hu.inv_tracedTo h).1 hstep hr hb).1 ht
    simp only [TracedTo, ht] at htrace
    exact ⟨hunarmed, hdone, htrace⟩

/-! ## The steps START, ARM and SEND -/

/-- Settles O19: an admitted request leaves IDLE for ARM. -/
theorem executeStartsTheTransaction : Obligations.ExecuteStartsTheTransaction := by
  intro s hs hl
  rw [exec_execute_of_idle hs, startExecute_of_le (s := s.acceptStart .execute) hl]
  rfl

/-- An FSM step that leaves the block busy is the block's step alone. -/
theorem fsmStep_of_goesOn {k : Config} {s : State} {ok : Bool} {pick : WaitExit}
    (h : (s.blockStep k ok pick).tstate ≠ .idle) : s.fsmStep k ok pick = s.blockStep k ok pick :=
  if_neg fun hi => h hi.2

/-- An FSM step that ends the transaction is the block's step, then the client's part (R190). -/
theorem fsmStep_of_ends {k : Config} {s : State} {ok : Bool} {pick : WaitExit} (hb : s.tstate ≠ .idle)
    (h : (s.blockStep k ok pick).tstate = .idle) : s.fsmStep k ok pick = (s.blockStep k ok pick).deliver k :=
  if_pos ⟨hb, h⟩

/-- Step ARM, `startReceive` answering success (R152, R153). -/
theorem fsmStep_armed {s : State} (h : s.tstate = .arm) (k : Config) (pick : WaitExit) :
    s.fsmStep k true pick =
      { s with rxbuf := [], trace := s.trace ++ [.arm true], rxArmed := true, rxWr := 0, tstate := .send } := by
  have hb : s.blockStep k true pick = s.armStep true := by rw [State.blockStep, h]
  rw [fsmStep_of_goesOn (by rw [hb]; nofun), hb]
  rfl

/-- Step ARM, `startReceive` answering failure (R153). -/
theorem fsmStep_armFailed {s : State} (h : s.tstate = .arm) (k : Config) (pick : WaitExit) :
    s.fsmStep k false pick = ((s.clearRx.record (.arm false)).failureExit .armFailure).deliver k := by
  have hb : s.blockStep k false pick = s.armStep false := by rw [State.blockStep, h]
  rw [fsmStep_of_ends (by simp [h]) (by rw [hb]; rfl), hb]
  rfl

/-- Step SEND, `transmit` answering success (R154). -/
theorem fsmStep_sent {s : State} (h : s.tstate = .send) (k : Config) (pick : WaitExit) :
    s.fsmStep k true pick = s.sendDone k := by
  have hb : s.blockStep k true pick = s.sendDone k := by rw [State.blockStep, h]; rfl
  rw [fsmStep_of_goesOn (by rw [hb]; nofun), hb]

/-- Step SEND, `transmit` answering failure (R155). -/
theorem fsmStep_sendFailed {s : State} (h : s.tstate = .send) (k : Config) (pick : WaitExit) :
    s.fsmStep k false pick = (s.sendFailed k).deliver k := by
  have hb : s.blockStep k false pick = s.sendFailed k := by rw [State.blockStep, h]; rfl
  rw [fsmStep_of_ends (by simp [h]) (by rw [hb]; rfl), hb]

theorem step_fsm_eq {s t : State} {ok : Bool} {pick : WaitExit} {rest : List Move} (h : s.inputs = .fsm ok pick :: rest)
    (ht : ({ s with inputs := rest } : State).fsmStep Config.session ok pick = t) : step s = .next t := by
  rw [step_fsm h, ht]

/-- Settles O21: the step for each answer of `startReceive`. -/
theorem armStepClearsAndArms : Obligations.ArmStepClearsAndArms := by
  intro s ok pick rest hi hs
  let u : State := { s with inputs := rest }
  cases ok with
  | true => exact ⟨_, step_fsm_eq hi (fsmStep_armed (s := u) hs _ pick), fun _ => rfl, rfl, fun _ => rfl, nofun⟩
  | false =>
    refine ⟨_, step_fsm_eq hi (fsmStep_armFailed (s := u) hs _ pick), ?_⟩
    simp [u]

/-- Settles O22: ENCODE's effect on `TXBUF`, and the step for each answer of `transmit`. -/
theorem sendStepTransmitsTheFrame : Obligations.SendStepTransmitsTheFrame := by
  intro s ok pick rest hi hs h frame
  let u : State := { s with inputs := rest }
  have hl : u.reqLen.toNat ≤ 251 := h.busy_len (by simp [hs])
  have hw : Memory.wf txDepth u.txbuf = true := h.txbuf_wf
  have hcount := encodeRequest_count Config.session hl
  have hframe : (u.encodeRequest Config.session).txFrame = frame := encodeRequest_txFrame _ hl hw
  have hkept (a : Nat) (ha : 7 + s.reqLen.toNat ≤ a) :
      Memory.read (u.encodeRequest Config.session).txbuf a = Memory.read s.txbuf a := by
    have hlen : (encodeFrame Config.session u.reqCmd u.requestData).length = 7 + u.reqLen.toNat := by simp
    exact Memory.read_writeBytes_outside hw (by rw [hlen, txDepth]; omega) (.inr (by rw [hlen, Nat.zero_add]; exact ha))
  cases ok with
  | true =>
    refine ⟨_, step_fsm_eq hi (fsmStep_sent (s := u) hs _ pick), hcount, hframe, hkept, fun _ => ?_, nofun⟩
    rw [sendDone_frame, hframe]
  | false =>
    refine ⟨_, step_fsm_eq hi (fsmStep_sendFailed (s := u) hs _ pick), ?_⟩
    rw [sendFailed_frame, hframe]
    simp only [State.deliver_txCount, State.deliver_txbuf]
    have hpart : ∃ n, s.outbound ++ frame.take (Config.freeNat s.draws) = s.outbound ++ frame.take n := ⟨_, rfl⟩
    exact ⟨hcount, hframe, hkept, nofun, fun _ => by simpa [u] using hpart⟩

/-! ## The step WAIT -/

/-- In WAIT with an exit enabled, an FSM step takes an enabled one, the picked one if that is, and the query returns (R156,
R190). -/
theorem fsmStep_wait_ends {k : Config} {s : State} (ok : Bool) (pick : WaitExit) (hs : s.tstate = .wait) {e : WaitExit}
    (he : s.exitEnabled k e = true) :
    ∃ e', s.exitEnabled k e' = true ∧ (s.exitEnabled k pick = true → e' = pick) ∧
      s.fsmStep k ok pick = (s.takeExit k e').deliver k := by
  cases hc : s.chosenExit k pick with
  | none => exact absurd (chosenExit_none.1 hc e) (by simp [he])
  | some e' =>
    obtain ⟨he', hpick⟩ := chosenExit_some hc
    have hb : s.blockStep k ok pick = s.takeExit k e' := by simp only [State.blockStep, hs, State.waitStep, hc]
    refine ⟨e', he', hpick, ?_⟩
    rw [fsmStep_of_ends (by simp [hs]) (by rw [hb]; exact (takeExit_fields k s e').1), hb]

/-- In WAIT with no exit enabled, an FSM step changes nothing (R156). -/
theorem fsmStep_waits {k : Config} {s : State} (ok : Bool) (pick : WaitExit) (hs : s.tstate = .wait)
    (h : ∀ e, s.exitEnabled k e = false) : s.fsmStep k ok pick = s := by
  have hb : s.blockStep k ok pick = s := by
    simp only [State.blockStep, hs, State.waitStep, chosenExit_none.2 h]
  rw [fsmStep_of_goesOn (by simp [hb, hs]), hb]

theorem exitEnabled_timeout {k : Config} {s : State} : s.exitEnabled k .timeout = true ↔ k.timeout ≤ s.now - s.t0 :=
  decide_eq_true_iff

/-- Settles O23: the step takes an enabled exit or none, and completion decodes what DECODE would. -/
theorem waitTakesAnyEnabledExit : Obligations.WaitTakesAnyEnabledExit := by
  intro s ok pick rest hi hs enabled
  let u : State := { s with inputs := rest }
  have hen (e : WaitExit) : enabled e ↔ u.exitEnabled Config.session e = true := by
    cases e with
    | completion => exact (iscomplete_iff s.rxbuf).symm
    | timeout => exact exitEnabled_timeout.symm
    | waitFailure => exact Iff.rfl
  simp only [hen]
  refine ⟨fun hnone => ?_, fun e he => ?_⟩
  · rw [step_fsm hi, fsmStep_waits (s := u) ok pick hs (by simpa using hnone)]
  · obtain ⟨e', he', hpick, hend⟩ := fsmStep_wait_ends ok pick (s := u) hs he
    obtain ⟨hidle, hdone, harmed, htrace⟩ := takeExit_fields Config.session u e'
    have hp : PollOnly u ((u.takeExit Config.session e').deliver Config.session) :=
      hend ▸ fsmStep_pollOnly (s := u) hs ok pick
    unfold PollOnly at hp
    refine ⟨e', he', hpick, _, step_fsm_eq hi hend, (State.deliver_tstate _ _).trans hidle,
      (State.deliver_done _ _).trans hdone, (State.deliver_rxArmed _ _).trans harmed,
      (State.deliver_trace _ _).trans htrace, ?_⟩
    rw [hp]
    refine ⟨rfl, rfl, rfl, rfl, rfl, rfl, rfl, rfl, rfl, rfl, rfl, rfl, rfl, rfl, rfl, ?_, ?_, ?_⟩
    · rintro rfl
      obtain ⟨herr, hcmd, hlen, hdata⟩ := decodeResponse_congr Config.session (s := u.abortReceive)
        (t := ({ s with tstate := .idle } : State).acceptStart .decode) rfl rfl rfl
      exact ⟨_, exec_decode_of_idle rfl, (State.deliver_err _ _).trans herr, (State.deliver_rspCmd _ _).trans hcmd,
        (State.deliver_rspLen _ _).trans hlen, (State.deliver_rspData _ _).trans hdata⟩
    · rintro rfl
      simp [State.takeExit]
    · rintro rfl
      simp [State.takeExit]

/-- Settles O24: the timeout is the one enabled exit. -/
theorem timeoutIsReportedWithOneAbort : Obligations.TimeoutIsReportedWithOneAbort := by
  intro s ok pick rest hi hs hc hw ht
  let u : State := { s with inputs := rest }
  obtain ⟨e, he, -, hend⟩ := fsmStep_wait_ends ok pick (s := u) hs (exitEnabled_timeout.2 ht)
  cases e with
  | completion => exact absurd (hc.symm.trans he) nofun
  | waitFailure => exact absurd (hw.symm.trans he) nofun
  | timeout =>
    refine ⟨_, step_fsm_eq hi hend, ?_⟩
    simp [State.takeExit, u]

/-- A step that stays in WAIT does not move the window's start (R154, R158). -/
theorem Effect.t0_of_wait {k : Config} {s t : State} (he : Effect k s t) (hs : s.tstate = .wait) : t.t0 = s.t0 := by
  obtain ⟨u, hu, rfl | ⟨ok, pick, rfl⟩⟩ := he.busy_cases (by simp [hs])
  · rw [hu]
  · have hw : u.tstate = .wait := by rwa [hu]
    rw [fsmStep_pollOnly hw ok pick, hu]

/-- Once the timeout has been reached, an FSM step of WAIT ends it (R158, R173). -/
theorem fsmStep_wait_timedOut {k : Config} {s : State} (ok : Bool) (pick : WaitExit) (hs : s.tstate = .wait)
    (ht : k.timeout ≤ s.now - s.t0) : (s.fsmStep k ok pick).tstate = .idle := by
  obtain ⟨e, -, -, hend⟩ := fsmStep_wait_ends ok pick hs (exitEnabled_timeout.2 ht)
  rw [hend, State.deliver_tstate]
  exact (takeExit_fields k s e).1

/-- Settles O30: the clock only advances while the window's start stays, and the timeout is an enabled exit. -/
theorem waitIsBounded : Obligations.WaitIsBounded := by
  refine ⟨fun s s' hstep hr hs _ ht => ?_, fun s ok pick rest hi hs ht => ?_⟩
  · obtain ⟨-, -, hnow⟩ := historyOnlyGrows s s' hstep
    obtain ⟨rest, he⟩ := step_effect_of_resetNotNext hstep hr
    have ht0 : s'.t0 = s.t0 := he.t0_of_wait hs
    omega
  · rcases hi with hi | hi
    · exact ⟨_, step_fsm hi, fsmStep_wait_timedOut (s := { s with inputs := rest }) ok pick hs ht⟩
    · refine ⟨s.fsmFree Config.session, by unfold step; rw [hi], ?_⟩
      rw [fsmFree_of_busy (by simp [hs])]
      exact fsmStep_wait_timedOut (s := s.draw) _ _ hs ht

/-! ## A whole successful transaction -/

theorem run_succ {s t : State} (h : step s = .next t) (n : Nat) : core.run (n + 1) s = core.run n t := by
  have hs : core.step s = .next t := h
  simp only [Host.Core.run, hs]

/-- A deposit reads neither the inbound stream nor the schedule (R33). -/
theorem depositByte_unread (s : State) (b : Byte) (q : List Byte) (rest : List Move) :
    { s.depositByte b with inbound := q, inputs := rest } =
      ({ s with inbound := q, inputs := rest } : State).depositByte b := by
  unfold State.depositByte
  split <;> rfl

/-- As many deposits as bytes are on their way land one after the other (R33). -/
theorem run_deposits {s : State} {bs q : List Byte} {rest : List Move} (hq : s.inbound = bs ++ q)
    (hi : s.inputs = List.replicate bs.length .deposit ++ rest) (n : Nat) :
    core.run (n + bs.length) s = core.run n (({ s with inbound := q, inputs := rest } : State).depositBytes bs) := by
  induction bs generalizing s with
  | nil =>
    rw [List.nil_append] at hq
    rw [List.length_nil, List.replicate_zero, List.nil_append] at hi
    subst hq hi
    rfl
  | cons b bs ih =>
    let u : State := { s with inbound := bs ++ q, inputs := List.replicate bs.length .deposit ++ rest }
    have hstep : step s = .next (u.depositByte b) := by
      rw [step_environment hi nofun]
      show Host.Outcome.next (State.depositNext _) = _
      rw [State.depositNext, hq]
      rfl
    have hu := depositByte_frame u b
    rw [List.length_cons, ← Nat.add_assoc, run_succ hstep, ih (by rw [hu]) (by rw [hu]), depositByte_unread]
    rfl

/-- `u` is in WAIT, the request of `s` transmitted and nothing received yet (R152 to R154). -/
structure RequestSent (k : Config) (s u : State) : Prop where
  tstate : u.tstate = .wait
  rxArmed : u.rxArmed = true
  rxWr : u.rxWr = 0
  rxbuf : u.rxbuf = []
  rspData : u.rspData = s.rspData
  inbound : u.inbound = s.inbound
  outbound : u.outbound = s.outbound ++ s.requestFrame k
  trace : ∃ count : BitVec 9, count.toNat = 7 + s.reqLen.toNat ∧
    u.trace = s.trace ++ [.arm true, .tx (s.requestFrame k) count true]

/-- START, ARM and SEND with success: three steps from an idle block with an admitted request (R150 to R154). -/
theorem run_request {s : State} {p1 p2 : WaitExit} {rest : List Move} (h : Inv Config.session s) (hs : s.tstate = .idle)
    (hl : s.reqLen.toNat ≤ 251) (hi : s.inputs = [.issue [0], .fsm true p1, .fsm true p2] ++ rest) :
    ∃ u, RequestSent Config.session s u ∧ u.inputs = rest ∧ ∀ n, core.run (n + 3) s = core.run n u := by
  let a : State :=
    { s with inputs := .fsm true p1 :: .fsm true p2 :: rest, opsel := .execute, done := false, tstate := .arm }
  let v : State :=
    { a with
      inputs := rest, rxbuf := [], trace := s.trace ++ [.arm true], rxArmed := true, rxWr := 0, tstate := .send }
  have hstart : step s = .next a := by
    rw [step_issue hi, runIssued_of_decode (i := .execute) rfl]
    exact executeStartsTheTransaction _ hs hl
  have harm : step a = .next { v with inputs := .fsm true p2 :: rest } :=
    step_fsm_eq rfl (fsmStep_armed (s := { a with inputs := .fsm true p2 :: rest }) rfl _ p1)
  have hsend : step { v with inputs := .fsm true p2 :: rest } = .next (v.sendDone Config.session) :=
    step_fsm_eq rfl (fsmStep_sent (s := v) rfl _ p2)
  have hframe : (v.encodeRequest Config.session).txFrame = s.requestFrame Config.session :=
    encodeRequest_txFrame (s := v) Config.session hl h.txbuf_wf
  refine ⟨v.sendDone Config.session, ?_, ?_, fun n => ?_⟩
  · rw [sendDone_frame, hframe]
    exact ⟨rfl, rfl, rfl, rfl, rfl, rfl, rfl, _, encodeRequest_count (s := v) Config.session hl, by simp [v]⟩
  · rw [sendDone_frame]
  · rw [run_succ hstart, run_succ harm, run_succ hsend]

/-- Host-started DECODE of a buffer that holds a frame of at most 251 data bytes gives its packet (R120, R121, R123). -/
theorem hostDecode_of_frame (k : Config) {s : State} {command : Byte} {data : List Byte}
    (hw : Memory.wf maxData s.rspData = true) (hl : data.length ≤ 251)
    (hb : s.rxbuf = Memory.writeBytes [] 0 (encodeFrame k command data)) :
    (s.hostDecode k).rspCmd = command ∧ (s.hostDecode k).rspLen.toNat = data.length ∧
      Memory.readBytes (s.hostDecode k).rspData 0 data.length = data ∧
      (s.hostDecode k).err = statusOfCommand k command := by
  obtain ⟨hcmd, hlen, hdata⟩ := fields_encodeFrame k command data (by omega)
  rw [← hb] at hcmd hlen hdata
  rw [State.hostDecode, decodeResponse_of_frame k hl hb]
  refine ⟨hcmd, hlen, ?_, congrArg (statusOfCommand k) hcmd⟩
  show Memory.readBytes (Memory.writeBytes s.rspData 0 (receivedData s.rxbuf)) 0 data.length = data
  rw [hdata]
  exact Memory.readBytes_writeBytes hw (by rw [Nat.zero_add]; exact hl)

/-- The whole response deposited, then the poll that completes: the steps of WAIT up to the transaction's end (R33, R157). -/
theorem run_response {s u : State} {command : Byte} {data : List Byte} {ok : Bool} (hu : RequestSent Config.session s u)
    (hne : data ≠ []) (hl : data.length ≤ 251) (hq : u.inbound = encodeFrame Config.session command data)
    (hi : u.inputs = List.replicate (7 + data.length) .deposit ++ [.fsm ok .completion]) :
    ∃ v : State, v.rxbuf = Memory.writeBytes [] 0 (encodeFrame Config.session command data) ∧ v.rspData = u.rspData ∧
      v.outbound = u.outbound ∧ v.trace = u.trace ∧
      core.run (1 + (7 + data.length)) u =
        .next ((v.takeExit Config.session .completion).deliver Config.session) := by
  have hlen := length_encodeFrame Config.session command data
  let w : State := { u with inbound := [], inputs := [.fsm ok .completion] }
  let v : State :=
    { u with
      inbound := [], inputs := [], rxbuf := Memory.writeBytes [] 0 (encodeFrame Config.session command data)
      rxWr := 7 + data.length }
  have hdeposits : w.depositBytes (encodeFrame Config.session command data) =
      { v with inputs := [.fsm ok .completion] } := by
    rw [depositBytes_armed (s := w) hu.rxArmed _ (by simp only [w, hu.rxWr, hlen, rxDepth]; omega)]
    simp only [w, v, hu.rxWr, hu.rxbuf, hlen, Nat.zero_add]
  have hcomplete : iscomplete v.rxbuf = true :=
    (onlyWholeFramesWithDataComplete Config.session command data hl).1.2 hne
  have hpoll : step { v with inputs := [.fsm ok .completion] } = _ :=
    step_fsm_eq rfl (fsmStep_completion (s := v) ok hu.tstate hcomplete)
  refine ⟨v, rfl, rfl, rfl, rfl, ?_⟩
  rw [← hlen] at hi ⊢
  rw [run_deposits (hq.trans (List.append_nil _).symm) hi, hdeposits, run_succ hpoll]
  rfl

/-- Settles O46: the request's three steps, then the response's. -/
theorem successfulTransactionDeliversTheResponse : Obligations.SuccessfulTransactionDeliversTheResponse := by
  intro s command data p1 p2 ok h hs hl hne hd hq hi frame
  rw [List.append_assoc] at hi
  obtain ⟨u, hu, hui, hrun⟩ := run_request h hs hl hi
  obtain ⟨v, hrx, hrsp, hout, htrace, hend⟩ := run_response hu hne hd (hu.inbound.trans hq) hui
  obtain ⟨count, hcount, hsent⟩ := hu.trace
  have hwf : Memory.wf maxData v.rspData = true := by rw [hrsp, hu.rspData]; exact h.rspData_wf
  obtain ⟨hcmd, hlen, hdata, herr⟩ :=
    hostDecode_of_frame Config.session (s := v.abortReceive) hwf hd hrx
  obtain ⟨hidle, hdone, harmed, habort⟩ := takeExit_fields Config.session v .completion
  refine ⟨(v.takeExit Config.session .completion).deliver Config.session, ?_, (State.deliver_tstate _ _).trans hidle,
    (State.deliver_done _ _).trans hdone, (State.deliver_rxArmed _ _).trans harmed,
    (State.deliver_rspCmd _ _).trans hcmd, (congrArg _ (State.deliver_rspLen _ _)).trans hlen, ?_,
    (State.deliver_err _ _).trans herr, ?_, count, hcount, ?_⟩
  · rw [show 11 + data.length = 1 + (7 + data.length) + 3 by omega, hrun, hend]
  · rw [State.deliver_rspData]
    exact hdata
  · rw [State.deliver_outbound, takeExit_frame, hout, hu.outbound]
    rfl
  · rw [State.deliver_trace, habort, htrace, hsent, List.append_assoc]
    rfl

end Sys2Proof.Machine
end

section
/-! PROOFS of the family 43_sensor_client.md: a query's launch and its end (R190, R199, R204, R207), the conversions of a
payload (R191 to R200, R203, R206), the status flags (R205), and the slave-error report (R201). -/

namespace Sys2Proof.Machine

/-! ## A query's launch -/

/-- Each query's instruction is its launch (R191 to R200). -/
theorem exec_instr (q : Query) (index : Option Byte) (s : State) :
    exec (q.instr index) s = .next (s.launch Config.session q index) := by
  cases q <;> rfl

/-- A launch in an idle block writes the request and leaves IDLE for ARM, a request being of one byte at most (R190). -/
theorem launch_of_idle {s : State} (h : s.tstate = .idle) (k : Config) (q : Query) (index : Option Byte) :
    s.launch k q index =
      { s with
        reqCmd := k.commandOf q, reqLen := (s.writeRequest k q (index.getD 0x00)).reqLen
        reqData := (s.writeRequest k q (index.getD 0x00)).reqData, opsel := .execute, done := false, tstate := .arm
        query := some q, result := none, sensorData := none } := by
  have hl := writeRequest_reqLen_le k q (index.getD 0x00) (s.acceptStart .execute)
  rw [State.launch, startUnit_of_idle h]
  exact startExecute_of_le hl

/-- With `HAS_INDEX` a request is the index byte (R190). -/
theorem writeRequest_of_hasIndex {k : Config} {q : Query} (h : k.hasIndex q = true) (index : Byte) (s : State) :
    s.writeRequest k q index =
      { s with reqCmd := k.commandOf q, reqLen := 1, reqData := Memory.write s.reqData 0 index } := by
  simp only [State.writeRequest, if_pos h]

/-- Without `HAS_INDEX` a request has no data (R190). -/
theorem writeRequest_of_not_hasIndex {k : Config} {q : Query} (h : k.hasIndex q = false) (index : Byte) (s : State) :
    s.writeRequest k q index = { s with reqCmd := k.commandOf q, reqLen := 0 } := by
  simp [State.writeRequest, h]

/-- Settles O35: the launch's equation, and the request for each value of `HAS_INDEX`. -/
theorem queryLaunchBuildsTheRequest : Obligations.QueryLaunchBuildsTheRequest := by
  intro q index s hs hw
  refine ⟨_, exec_instr q index s, ?_⟩
  rw [launch_of_idle hs]
  refine ⟨rfl, ?_⟩
  cases hi : Config.session.hasIndex q with
  | true =>
    rw [writeRequest_of_hasIndex hi]
    refine ⟨fun _ => ⟨rfl, ?_⟩, nofun, fun a ha => ?_⟩
    · rw [Memory.read_write hw, if_pos rfl]
    · rw [Memory.read_write hw, if_neg (by omega)]
  | false =>
    rw [writeRequest_of_not_hasIndex hi]
    exact ⟨nofun, fun _ => ⟨rfl, rfl⟩, fun _ _ => rfl⟩

/-! ## A query's end -/

/-- What a query returns: its fallback on an error, and on a success the converted payload where the conversion is defined
(R190, R204). -/
theorem deliver_returns (k : Config) {s : State} {q : Query} (hq : s.query = some q) :
    ∃ r, (s.deliver k).result = some r ∧ r.query = q ∧ r.status = s.err ∧
      (s.err ≠ .noError → r.value = fallback q) ∧
      (s.err = .noError → s.rspLen.toNat ≤ 251 → ∀ v, convert q (s.payload (k.hasIndex q)) = some v → r.value = v) :=
  ⟨_, deliver_result hq, rfl, rfl, fun he => typedResult_of_error he q, fun he hl _ hv => typedResult_of_convert he hl hv⟩

/-- Settles O36: an FSM step is the block's, which leaves the client alone, and at the transaction's end the delivery. -/
theorem queryReturnsWhenItsTransactionEnds : Obligations.QueryReturnsWhenItsTransactionEnds := by
  intro s ok pick rest q hi hb hq
  let u : State := { s with inputs := rest }
  obtain ⟨-, -, -, hquery, hresult⟩ := blockStep_client Config.session ok pick u
  rcases fsmStep_cases Config.session ok pick u with ⟨he, hgo⟩ | ⟨he, -, hend⟩
  · have hbusy := hgo.resolve_left hb
    exact ⟨_, step_fsm_eq hi he, fun _ => ⟨hquery.trans hq, hresult⟩, fun hidle => absurd hidle hbusy⟩
  · have hidle := (State.deliver_tstate Config.session _).trans hend
    refine ⟨_, step_fsm_eq hi he, fun hbusy => absurd hidle hbusy, fun _ => ⟨State.deliver_query _ _, ?_⟩⟩
    simp only [State.deliver_err, State.deliver_rspLen, State.deliver_rspData]
    exact deliver_returns Config.session (hquery.trans hq)

/-! ## The cached data format -/

/-- Delivery to a data-format query while none has succeeded: what it returns stands in `DATA_FORMAT`, the fallback after an
error, the payload's first four bytes after a success, which is then fetched (R199, R204, R207, log 18). -/
theorem deliver_formatQuery (k : Config) {s : State} (hq : s.query = some .sensorDataFormat)
    (hf : s.dataFormatFetched = false) :
    (∃ r, (s.deliver k).result = some r ∧ r.value = .dataFormat (s.deliver k).dataFormat) ∧
      ((s.deliver k).dataFormatFetched = true ↔ s.err = .noError) ∧
      (s.err ≠ .noError → (s.deliver k).dataFormat = ⟨0, 0, 0, 0⟩) ∧
      (s.err = .noError → s.rspLen.toNat ≤ 251 → ∀ b0 b1 b2 b3 more,
        s.payload (k.hasIndex .sensorDataFormat) = b0 :: b1 :: b2 :: b3 :: more →
        (s.deliver k).dataFormat = ⟨b0, b1, b2, b3⟩) := by
  obtain ⟨hvalue, hfetched⟩ := deliver_fetches (k := k) hq hf
  refine ⟨⟨_, deliver_result hq, hvalue⟩, by rw [hfetched, decide_eq_true_iff], fun he => ?_,
    fun he hl b0 b1 b2 b3 more hp => ?_⟩
  · rw [typedResult_of_error he] at hvalue
    exact (TypedResult.dataFormat.inj hvalue).symm
  · have hconv : convert .sensorDataFormat (s.payload (k.hasIndex .sensorDataFormat)) =
        some (.dataFormat ⟨b0, b1, b2, b3⟩) := by rw [hp]; rfl
    rw [typedResult_of_convert he hl hconv] at hvalue
    exact (TypedResult.dataFormat.inj hvalue).symm

/-- Settles O41: of all a step does to the client, only a delivery touches `DATA_FORMAT`. -/
theorem dataFormatIsFetchedOnce : Obligations.DataFormatIsFetchedOnce := by
  intro s s' hstep hr
  obtain ⟨rest, he⟩ := step_effect_of_resetNotNext hstep hr
  cases he.client with
  | same hs =>
    obtain ⟨hformat, hfetched, -, hquery, -⟩ := hs
    refine ⟨fun h => ⟨hfetched.trans h, hformat⟩, fun hne => absurd hformat hne, fun hq hq' => ?_⟩
    rw [hquery, hq] at hq'
    cases hq'
  | delivers u hs =>
    obtain ⟨hformat, hfetched, -, hquery, -⟩ := hs
    obtain ⟨hkept, hchanged⟩ := deliver_dataFormat Config.session u
    refine ⟨fun h => ?_, fun hne => ⟨?_, State.deliver_query _ _⟩, fun hq _ hf => ?_⟩
    · obtain ⟨hstays, hstill⟩ := hkept (hfetched.trans h)
      exact ⟨hstill, hstays.trans hformat⟩
    · exact hquery.symm.trans (hchanged fun h => hne (h.trans hformat))
    · simp only [State.deliver_err, State.deliver_rspLen, State.deliver_rspData]
      exact deliver_formatQuery Config.session (hquery.trans hq) (hfetched.trans hf)
  | launches q _ _ hlaunched _ _ hformat hfetched =>
    refine ⟨fun h => ⟨hfetched.trans h, hformat⟩, fun hne => absurd hformat hne, fun _ hq' => ?_⟩
    rw [hlaunched] at hq'
    cases hq'

/-! ## The conversions -/

/-- Settles O37: the rows of `convert` and of `fallback`. -/
theorem stringsRawBytesAndFallbacks : Obligations.StringsRawBytesAndFallbacks := by
  refine ⟨fun q p hq => ?_, fun _ => rfl, rfl, rfl, rfl, rfl, rfl, rfl⟩
  simp only [List.mem_cons, List.not_mem_nil, or_false] at hq
  rcases hq with rfl | rfl | rfl | rfl <;> exact ⟨rfl, rfl⟩

/-- An ASCII digit (R194, log 26). -/
def isDigit (b : Byte) : Bool := decide (0x30 ≤ b.toNat ∧ b.toNat ≤ 0x39)

/-- A decimal number with one more digit at its end (R194). -/
def appendDigit (m : Nat) (b : Byte) : Nat := m * 10 + (b.toNat - 0x30)

/-- A digit extends the serial number modulo 2^32 (R194). -/
theorem serialStep_of_digit {b : Byte} (h : isDigit b = true) (n : Word) :
    serialStep n b = BitVec.ofNat 32 (appendDigit n.toNat b) :=
  if_pos (of_decide_eq_true h)

/-- Another character is skipped (R194). -/
theorem serialStep_of_not_digit {b : Byte} (h : ¬isDigit b = true) (n : Word) : serialStep n b = n :=
  if_neg fun hd => h (decide_eq_true hd)

/-- Taking the remainder after every digit or once at the end is the same. -/
theorem toNat_foldl_serialStep (p : List Byte) {n : Word} {m : Nat} (h : n.toNat = m % 2 ^ 32) :
    (p.foldl serialStep n).toNat = (p.filter isDigit).foldl appendDigit m % 2 ^ 32 := by
  induction p generalizing n m with
  | nil => exact h
  | cons b p ih =>
    rw [List.foldl_cons]
    by_cases hd : isDigit b = true
    · rw [List.filter_cons_of_pos hd, List.foldl_cons, serialStep_of_digit hd]
      refine ih ?_
      simp only [BitVec.toNat_ofNat, appendDigit, h]
      omega
    · rw [List.filter_cons_of_neg hd, serialStep_of_not_digit hd]
      exact ih h

/-- Settles O38: the digits' fold from 0. -/
theorem serialNumberIsTheDigitsValue : Obligations.SerialNumberIsTheDigitsValue :=
  ⟨rfl, fun p => ⟨_, rfl, toNat_foldl_serialStep p (n := 0) (m := 0) rfl⟩⟩

/-- The unsigned little-endian value fits 32 bits (R11). -/
theorem toNat_le32u (b0 b1 b2 b3 : Byte) :
    (le32u b0 b1 b2 b3).toNat = b0.toNat + 2 ^ 8 * b1.toNat + 2 ^ 16 * b2.toNat + 2 ^ 24 * b3.toNat := by
  simp only [le32u, BitVec.toNat_ofNat]
  omega

/-- The two's complement value is the unsigned one modulo 2^32 (R11). -/
theorem le32s_congr (b0 b1 b2 b3 : Byte) :
    (le32s b0 b1 b2 b3 - (b0.toNat + 2 ^ 8 * b1.toNat + 2 ^ 16 * b2.toNat + 2 ^ 24 * b3.toNat)) % 2 ^ 32 = 0 := by
  have hu := toNat_le32u b0 b1 b2 b3
  simp only [le32s]
  split <;> omega

/-- The nearest hundredth, halves away from zero: above for a positive value, below for a negative one (R197). -/
theorem roundHundredths_bounds (raw : Int) :
    (0 ≤ raw → -50 ≤ raw - 100 * roundHundredths raw ∧ raw - 100 * roundHundredths raw < 50) ∧
      (raw < 0 → -50 < raw - 100 * roundHundredths raw ∧ raw - 100 * roundHundredths raw ≤ 50) := by
  simp only [roundHundredths]
  split <;> omega

/-- Settles O39: the value is exact in 32 bits, so its distance from the raw value is that of the rounding. -/
theorem measurementRoundsHalfAwayFromZero : Obligations.MeasurementRoundsHalfAwayFromZero := by
  refine ⟨rfl, fun status error b0 b1 b2 b3 rest => ⟨_, rfl, rfl, rfl, ?_⟩⟩
  obtain ⟨hlo, hhi⟩ := le32s_range b0 b1 b2 b3
  simp only [toInt_ofInt_roundHundredths hlo hhi]
  exact ⟨hhi, hlo, le32s_congr b0 b1 b2 b3, roundHundredths_bounds _⟩

/-- The three conversions that read four bytes are undefined exactly for a shorter payload (R195, R198, R199, R206). -/
theorem fourBytes_eq_none_iff (p : List Byte) :
    (runtimeOf p = none ↔ p.length < 4) ∧ (temperatureOf p = none ↔ p.length < 4) ∧
      (dataFormatOf p = none ↔ p.length < 4) := by
  match p with
  | [] | [_] | [_, _] | [_, _, _] => simp [runtimeOf, temperatureOf, dataFormatOf]
  | _ :: _ :: _ :: _ :: _ => simp [runtimeOf, temperatureOf, dataFormatOf]

/-- The measurement, which reads six, is undefined exactly for a shorter payload (R197, R206). -/
theorem measurementOf_eq_none_iff (p : List Byte) : measurementOf p = none ↔ p.length < 6 := by
  match p with
  | [] | [_] | [_, _] | [_, _, _] | [_, _, _, _] | [_, _, _, _, _] => simp [measurementOf]
  | _ :: _ :: _ :: _ :: _ :: _ :: _ => simp [measurementOf]

/-- Settles O40: the three rows of `convert` that read four bytes, and the four that can be undefined. -/
theorem fourByteConversions : Obligations.FourByteConversions := by
  refine ⟨fun b0 b1 b2 b3 rest => ⟨⟨_, rfl, toNat_le32u b0 b1 b2 b3⟩, ⟨_, rfl, ?_⟩, rfl⟩, fun q p => ?_⟩
  · obtain ⟨hlo, hhi⟩ := le32s_range b0 b1 b2 b3
    exact ⟨hlo, hhi, le32s_congr b0 b1 b2 b3⟩
  · obtain ⟨hruntime, htemperature, hformat⟩ := fourBytes_eq_none_iff p
    have hmeasurement := measurementOf_eq_none_iff p
    cases q <;> simp [convert, *]

/-! ## The status flags -/

/-- A byte with one bit at the position, set or not. -/
def flagBit (position : Fin 8) (set : Bool) : Byte := if set = true then BitVec.twoPow 8 position.val else 0

theorem getLsbD_flagBit (position : Fin 8) (set : Bool) (i : Fin 8) :
    (flagBit position set).getLsbD i.val = (decide (position = i) && set) := by
  cases set with
  | false => rw [flagBit, if_neg (by decide), Bool.and_false]; exact BitVec.getLsbD_zero
  | true =>
    rw [flagBit, if_pos rfl, BitVec.getLsbD_twoPow, decide_eq_true position.isLt, Bool.true_and, Bool.and_true]
    exact decide_eq_decide.2 Fin.ext_iff.symm

/-- The status byte with the given flags at the parameters' positions (R205). -/
def statusOfFlags (k : Config) (notReliable warmup lamp calibration : Bool) : Byte :=
  flagBit k.stNotReliable notReliable ||| flagBit k.stWarmup warmup ||| flagBit k.stLamp lamp |||
    flagBit k.stCalibration calibration

theorem getLsbD_statusOfFlags (k : Config) (n w l c : Bool) (i : Fin 8) :
    (statusOfFlags k n w l c).getLsbD i.val =
      (decide (k.stNotReliable = i) && n || decide (k.stWarmup = i) && w || decide (k.stLamp = i) && l ||
        decide (k.stCalibration = i) && c) := by
  simp only [statusOfFlags, BitVec.getLsbD_or, getLsbD_flagBit]

/-- The four flags read back, their positions being distinct (R7, R205). -/
theorem flags_statusOfFlags (k : Config) (n w l c : Bool) (error : Byte) (value : Word) :
    let d : SensorData := ⟨statusOfFlags k n w l c, error, value⟩
    d.notReliable k = n ∧ d.warmup k = w ∧ d.lamp k = l ∧ d.calibration k = c := by
  have hd := k.status_bits_distinct
  simp only [List.nodup_cons, List.mem_cons, List.not_mem_nil, not_or, or_false] at hd
  obtain ⟨⟨hnw, hnl, hnc⟩, ⟨hwl, hwc⟩, hlc, -⟩ := hd
  simp only [SensorData.notReliable, SensorData.warmup, SensorData.lamp, SensorData.calibration, SensorData.flag,
    getLsbD_statusOfFlags, hnw, hnl, hnc, hwl, hwc, hlc, Ne.symm hnw, Ne.symm hnl, Ne.symm hnc, Ne.symm hwl,
    Ne.symm hwc, Ne.symm hlc, decide_true, decide_false, Bool.true_and, Bool.false_and, Bool.or_false, Bool.false_or,
    and_self]

/-- Every bit of the fallback status is set (R204, R205). -/
theorem flag_of_status_ff {d : SensorData} (h : d.status = 0xFF) (position : Fin 8) : d.flag position = true := by
  rw [SensorData.flag, h]
  revert position
  decide

/-- Settles O42: a status byte with the four flags, and the fallback's status. -/
theorem statusFlagsAreIndependent : Obligations.StatusFlagsAreIndependent := by
  refine fun k => ⟨fun n w l c => ⟨_, flags_statusOfFlags k n w l c 0 0⟩, fun d hd => ?_⟩
  have hs : d.status = 0xFF := by rw [← TypedResult.measurement.inj hd]
  exact ⟨flag_of_status_ff hs _, flag_of_status_ff hs _, flag_of_status_ff hs _, flag_of_status_ff hs _⟩

/-! ## The slave-error report -/

/-- WAIT with the path armed, nothing received or on its way, and neither timeout nor transport failure (R154, R156). -/
structure FreshWait (k : Config) (s : State) : Prop where
  tstate : s.tstate = .wait
  rxArmed : s.rxArmed = true
  rxWr : s.rxWr = 0
  rxbuf : s.rxbuf = []
  inbound : s.inbound = []
  waitFail : s.waitFail = false
  in_time : s.now - s.t0 < k.timeout

@[simp] theorem received_tstate (k : Config) (s : State) (data : List Byte) : (s.received k data).tstate = s.tstate := by
  rw [received_frame]

section
variable {k : Config} {s : State} (h : FreshWait k s) {data : List Byte}
include h

/-- A report into a fresh WAIT leaves its frame in `RXBUF` and nothing else (R33, R201). -/
theorem FreshWait.received_eq (hl : data.length ≤ 251) :
    s.received k data =
      { s with
        inbound := [], rxbuf := Memory.writeBytes [] 0 (encodeFrame k k.cmdSlaveError data), rxWr := 7 + data.length } := by
  have hfits : s.rxWr + (encodeFrame k k.cmdSlaveError data).length ≤ rxDepth := by
    rw [h.rxWr, length_encodeFrame, rxDepth]
    omega
  rw [State.received, h.inbound, List.nil_append,
    depositBytes_armed (s := { s with inbound := [] }) h.rxArmed _ hfits, h.rxbuf, h.rxWr, length_encodeFrame, Nat.zero_add]

/-- After its reception completion is the one enabled exit, and only for a report with data (R126, R156). -/
theorem FreshWait.exitEnabled_received (hl : data.length ≤ 251) (e : WaitExit) :
    (s.received k data).draw.exitEnabled k e = true ↔ e = .completion ∧ data ≠ [] := by
  rw [h.received_eq hl]
  cases e with
  | completion => exact (onlyWholeFramesWithDataComplete k k.cmdSlaveError data hl).1.trans (and_iff_right rfl).symm
  | timeout => simpa [exitEnabled_timeout] using h.in_time
  | waitFailure => simpa [State.exitEnabled] using h.waitFail

/-- The report is its reception and one poll (R201, log 19). -/
theorem FreshWait.slaveReport_eq_poll (data : List Byte) :
    ∃ ok pick, s.slaveReport k data = (s.received k data).draw.fsmStep k ok pick := by
  rw [slaveReport_eq, if_pos h.tstate, fsmFree_of_busy (by simp [h.tstate])]
  exact ⟨_, _, rfl⟩

/-- A report without data completes nothing: the poll leaves WAIT as it is (R126). -/
theorem FreshWait.slaveReport_nil : s.slaveReport k [] = (s.received k []).draw := by
  obtain ⟨ok, pick, he⟩ := h.slaveReport_eq_poll []
  rw [he]
  exact fsmStep_waits ok pick (by simp [h.tstate]) fun e => by simp [Bool.eq_false_iff, h.exitEnabled_received]

/-- A report with data ends the transaction through completion, and the query returns (R157, R190). -/
theorem FreshWait.slaveReport_of_ne_nil (hl : data.length ≤ 251) (hne : data ≠ []) :
    s.slaveReport k data = ((s.received k data).draw.takeExit k .completion).deliver k := by
  obtain ⟨ok, pick, he⟩ := h.slaveReport_eq_poll data
  have ht : (s.received k data).draw.tstate = .wait := by simp [h.tstate]
  obtain ⟨e, hen, -, hend⟩ := fsmStep_wait_ends ok pick ht ((h.exitEnabled_received hl _).2 ⟨rfl, hne⟩)
  obtain ⟨rfl, -⟩ := (h.exitEnabled_received hl e).1 hen
  rw [he, hend]

end

/-- DECODE of a frame leaves `RSP_DATA` above its data (R22, R120). -/
theorem read_hostDecode_above (k : Config) {s : State} {command : Byte} {data : List Byte}
    (hw : Memory.wf maxData s.rspData = true) (hl : data.length ≤ 251)
    (hb : s.rxbuf = Memory.writeBytes [] 0 (encodeFrame k command data)) {i : Nat} (hi : data.length ≤ i) :
    Memory.read (s.hostDecode k).rspData i = Memory.read s.rspData i := by
  obtain ⟨-, hlen, -⟩ := fields_encodeFrame k command data (by omega)
  rw [← hb] at hlen
  rw [State.hostDecode, decodeResponse_of_frame k hl hb, State.finish_rspData,
    read_acceptFrame k hw (by rw [hlen]; exact hl), hlen, if_neg (Nat.not_lt.2 hi)]

/-- A byte that is the value of exactly one code determines it (R201, log 20). -/
theorem slaveCodesOf_eq_singleton {k : Config} {b : Byte} {c : SlaveErrorCode}
    (h : ∀ c', k.slaveErr c' = b ↔ c' = c) : slaveCodesOf k b = [c] := by
  simp only [slaveCodesOf, h]
  cases c <;> rfl

/-- The secondary code of a packet whose byte at `SLAVE_ERR_POS` determines one (R201). -/
theorem secondaryCode_of_packet {k : Config} {s : State} {data : List Byte} {b : Byte} {c : SlaveErrorCode}
    (hlen : s.rspLen.toNat = data.length) (hl : data.length ≤ 251)
    (hdata : Memory.readBytes s.rspData 0 data.length = data) (hb : data[k.slaveErrPos]? = some b)
    (hc : ∀ c', k.slaveErr c' = b ↔ c' = c) : s.secondaryCode k = some c := by
  obtain ⟨hpos, -⟩ := List.getElem?_eq_some_iff.1 hb
  have hread : Memory.read s.rspData k.slaveErrPos = b := by
    rw [← hdata, Memory.getElem?_readBytes, if_pos hpos, Nat.zero_add] at hb
    exact Option.some.inj hb
  unfold State.secondaryCode
  rw [if_pos (by rw [hlen]; exact ⟨hpos, hl⟩), hread, slaveCodesOf_eq_singleton hc]

/-- A query whose transaction a report ended returns its fallback, `SlaveReportedError`, and the secondary code if the packet
determines one (R201, R204). -/
theorem deliver_slaveReportedError {k : Config} {s : State} {q : Query} {data : List Byte} (hq : s.query = some q)
    (he : s.err = .slaveReportedError) (hlen : s.rspLen.toNat = data.length) (hl : data.length ≤ 251)
    (hdata : Memory.readBytes s.rspData 0 data.length = data) :
    ∃ r, (s.deliver k).result = some r ∧ r.query = q ∧ r.value = fallback q ∧ r.status = .slaveReportedError ∧
      ∀ c b, data[k.slaveErrPos]? = some b → (∀ c', k.slaveErr c' = b ↔ c' = c) → r.slaveCode = some c :=
  ⟨_, deliver_result hq, rfl, typedResult_of_error (by simp [he]) q, he,
    fun _ _ hb hc => (if_pos he).trans (secondaryCode_of_packet hlen hl hdata hb hc)⟩

/-- Settles O43: the reception's effect, and the poll for a report without data and for one with. -/
theorem slaveErrorReportEndsTheTransaction : Obligations.SlaveErrorReportEndsTheTransaction := by
  intro s data hs harmed hwr hrx hq hfail htime hl hw
  have h : FreshWait Config.session s := ⟨hs, harmed, hwr, hrx, hq, hfail, htime⟩
  have hpoll := slaveReport_pollOnly Config.session s data
  unfold PollOnly at hpoll
  rw [h.received_eq hl] at hpoll
  have hframe := congrArg State.rxbuf hpoll
  refine ⟨s.slaveReport Config.session data, rfl, ?_, fun a => ?_, ?_, fun hne => ?_⟩
  · rw [hframe]
    exact hpoll
  · rw [hframe]
    exact read_frameBuffer (by rw [length_encodeFrame, rxDepth]; omega) a
  · rintro rfl
    rw [h.slaveReport_nil, h.received_eq hl]
    exact ⟨hs, rfl, harmed, rfl, rfl, rfl, rfl, rfl, rfl, rfl⟩
  · rw [h.slaveReport_of_ne_nil hl hne, h.received_eq hl]
    generalize hu : State.draw _ = u
    have hrsp : u.rspData = s.rspData := by rw [← hu]; rfl
    have hbuf : u.rxbuf = Memory.writeBytes [] 0 (encodeFrame Config.session Config.session.cmdSlaveError data) := by
      rw [← hu]; rfl
    have hwu : Memory.wf maxData u.rspData = true := by rw [hrsp]; exact hw
    have hquery : (u.takeExit Config.session .completion).query = s.query := by rw [takeExit_frame, ← hu]; rfl
    obtain ⟨hidle, hdone, hunarmed, htrace⟩ := takeExit_fields Config.session u .completion
    obtain ⟨hcmd, hlen, hdata, herr⟩ := hostDecode_of_frame Config.session (s := u.abortReceive) hwu hl hbuf
    have herr' := herr.trans (if_pos rfl)
    simp only [State.deliver_tstate, State.deliver_done, State.deliver_rxArmed, State.deliver_trace, State.deliver_err,
      State.deliver_rspCmd, State.deliver_rspLen, State.deliver_rspData, State.deliver_query]
    refine ⟨hidle, hdone, hunarmed, htrace.trans (by rw [← hu]; rfl), herr', hcmd, hlen, hdata, fun i hi => ?_, trivial,
      fun q hq => deliver_slaveReportedError (hquery.trans hq) herr' hlen hl hdata⟩
    rw [← hrsp]
    exact read_hostDecode_above Config.session (s := u.abortReceive) hwu hl hbuf hi

end Sys2Proof.Machine
end
